-- ==== Sys2Proof/Word.lean ====
section
/-! DEFINITION. The word types of the CORE (spec/00_scope.md R8: every value is an unsigned number of a stated width). -/

namespace Sys2Proof

/-- An 8-bit value: a general register, a timer, a memory byte, an immediate `nn` (R22, R30, R60, R93). -/
abbrev Byte := BitVec 8

/-- A 16-bit value: an instruction word, `I`, `pc`, a stack entry (R25, R26, R29, R90). -/
abbrev Word := BitVec 16

/-- A 12-bit address immediate `nnn` (R92). -/
abbrev Addr := BitVec 12

/-- A register selector `x` or `y`; every value 0 to 15 is valid (R93). -/
abbrev RegIdx := Fin 16

end Sys2Proof
end

