-- ==== Sys2Proof/Syntax.lean ====
section
/-! DEFINITION. The 35 instructions of the opcode map (spec/30_encoding.md R95), one constructor a row, in the table's order. -/

namespace Sys2Proof

/-- An instruction with its operand fields (R92). Names follow the mnemonics of R104; the pattern is the normative name. -/
inductive Instr where
  /-- `00E0` clear the display (R240) -/
  | cls
  /-- `00EE` return from subroutine (R131) -/
  | ret
  /-- `0NNN` legacy no-op (R130) -/
  | sys (nnn : Addr)
  /-- `1NNN` jump (R132) -/
  | jp (nnn : Addr)
  /-- `2NNN` call (R133) -/
  | call (nnn : Addr)
  /-- `3XNN` skip if `Vx = nn` (R134) -/
  | seImm (x : RegIdx) (nn : Byte)
  /-- `4XNN` skip if `Vx ≠ nn` (R135) -/
  | sneImm (x : RegIdx) (nn : Byte)
  /-- `5XY0` skip if `Vx = Vy` (R136) -/
  | seReg (x y : RegIdx)
  /-- `6XNN` load immediate (R170) -/
  | ldImm (x : RegIdx) (nn : Byte)
  /-- `7XNN` add immediate, no flag (R171) -/
  | addImm (x : RegIdx) (nn : Byte)
  /-- `8XY0` register move (R172) -/
  | ldReg (x y : RegIdx)
  /-- `8XY1` OR (R173) -/
  | orReg (x y : RegIdx)
  /-- `8XY2` AND (R174) -/
  | andReg (x y : RegIdx)
  /-- `8XY3` exclusive OR (R175) -/
  | xorReg (x y : RegIdx)
  /-- `8XY4` add with carry out (R176) -/
  | addReg (x y : RegIdx)
  /-- `8XY5` subtract `Vy` from `Vx` (R177) -/
  | subReg (x y : RegIdx)
  /-- `8XY6` shift right; `y` is encoded and ignored (R178) -/
  | shr (x y : RegIdx)
  /-- `8XY7` subtract `Vx` from `Vy` (R179) -/
  | subn (x y : RegIdx)
  /-- `8XYE` shift left; `y` is encoded and ignored (R180) -/
  | shl (x y : RegIdx)
  /-- `9XY0` skip if `Vx ≠ Vy` (R137) -/
  | sneReg (x y : RegIdx)
  /-- `ANNN` set index register (R210) -/
  | ldI (nnn : Addr)
  /-- `BNNN` jump to `nnn + V0` (R138) -/
  | jpV0 (nnn : Addr)
  /-- `CXNN` random byte AND `nn` (R181) -/
  | rnd (x : RegIdx) (nn : Byte)
  /-- `DXYN` draw a sprite of `n` rows (R241) -/
  | drw (x y : RegIdx) (n : Fin 16)
  /-- `EX9E` skip if key `Vx` is pressed (R260) -/
  | skp (x : RegIdx)
  /-- `EXA1` skip if key `Vx` is not pressed (R261) -/
  | sknp (x : RegIdx)
  /-- `FX07` read the delay timer (R263) -/
  | ldVxDT (x : RegIdx)
  /-- `FX0A` wait for a key (R262) -/
  | ldVxK (x : RegIdx)
  /-- `FX15` set the delay timer (R264) -/
  | ldDTVx (x : RegIdx)
  /-- `FX18` set the sound timer (R265) -/
  | ldSTVx (x : RegIdx)
  /-- `FX1E` add to the index register (R211) -/
  | addI (x : RegIdx)
  /-- `FX29` point `I` at a font glyph (R212) -/
  | ldF (x : RegIdx)
  /-- `FX33` store decimal digits (R213) -/
  | ldB (x : RegIdx)
  /-- `FX55` store `V0` to `Vx` (R214) -/
  | store (x : RegIdx)
  /-- `FX65` load `V0` to `Vx` (R215) -/
  | load (x : RegIdx)
  deriving DecidableEq, Repr

end Sys2Proof
end

