-- ==== Sys2Proof/Decode.lean ====
section
/-! DEFINITION. The fields of a word, the decoder (spec/30_encoding.md R92, R94), the encoder, and the opcode map R95 as data. -/

namespace Sys2Proof

/-! ## Fields (R92) -/

/-- The `len` bits of `w` from bit `lo` up, as an unsigned number (R8: `bits[lo+len-1:lo]`). -/
def Word.bits (w : Word) (lo len : Nat) : Nat := w.toNat / 2 ^ lo % 2 ^ len

/-- `g`, the operation group, bits[15:12]. -/
def Word.fieldG (w : Word) : Nat := Word.bits w 12 4

/-- `x`, bits[11:8]. -/
def Word.fieldX (w : Word) : RegIdx := Fin.ofNat 16 (Word.bits w 8 4)

/-- `y`, bits[7:4]. -/
def Word.fieldY (w : Word) : RegIdx := Fin.ofNat 16 (Word.bits w 4 4)

/-- `n`, bits[3:0]. -/
def Word.fieldN (w : Word) : Fin 16 := Fin.ofNat 16 (Word.bits w 0 4)

/-- `nn`, bits[7:0]. -/
def Word.fieldNN (w : Word) : Byte := BitVec.ofNat 8 (Word.bits w 0 8)

/-- `nnn`, bits[11:0]. -/
def Word.fieldNNN (w : Word) : Addr := BitVec.ofNat 12 (Word.bits w 0 12)

/-- The 16-bit word of two bytes, most significant byte first (R66, R91). -/
def Word.ofBytes (hi lo : Byte) : Word := BitVec.ofNat 16 (hi.toNat * 256 + lo.toNat)

/-- The byte of a word at the lower address, `w div 256` (R66). -/
def Word.hiByte (w : Word) : Byte := BitVec.ofNat 8 (w.toNat / 256)

/-- The byte of a word at the higher address, `w mod 256` (R66). -/
def Word.loByte (w : Word) : Byte := BitVec.ofNat 8 (w.toNat % 256)

/-! ## Decode (R94) -/

/-- Why bytes or a word are no instruction. -/
inductive DecodeError where
  /-- `5XYn` with `n ≠ 0` (R96) -/
  | invalidGroup5
  /-- `8XYn` with `n` in 8 to D or F (R96) -/
  | invalidGroup8
  /-- `9XYn` with `n ≠ 0` (R96) -/
  | invalidGroup9
  /-- `EXnn` with `nn` not 9E or A1 (R96) -/
  | invalidGroupE
  /-- `FXnn` with `nn` not one of the nine of R96 -/
  | invalidGroupF
  /-- fewer than two bytes were given (R90: a decoder always consumes exactly 2) -/
  | truncated
  deriving DecidableEq, Repr

/-- Group 0 is matched on the whole word (R94). DESIGN CHOICE of the spec, D8, log 14: unsafe for the 30 words
`0?E0` and `0?EE`. -/
def decodeGroup0 (w : Word) : Instr :=
  if w = 0x00E0 then .cls else if w = 0x00EE then .ret else .sys (Word.fieldNNN w)

/-- Group 8 is dispatched on `n` (R94). -/
def decodeGroup8 (w : Word) : Except DecodeError Instr :=
  match (Word.fieldN w).val with
  | 0x0 => .ok (.ldReg (Word.fieldX w) (Word.fieldY w))
  | 0x1 => .ok (.orReg (Word.fieldX w) (Word.fieldY w))
  | 0x2 => .ok (.andReg (Word.fieldX w) (Word.fieldY w))
  | 0x3 => .ok (.xorReg (Word.fieldX w) (Word.fieldY w))
  | 0x4 => .ok (.addReg (Word.fieldX w) (Word.fieldY w))
  | 0x5 => .ok (.subReg (Word.fieldX w) (Word.fieldY w))
  | 0x6 => .ok (.shr (Word.fieldX w) (Word.fieldY w))
  | 0x7 => .ok (.subn (Word.fieldX w) (Word.fieldY w))
  | 0xE => .ok (.shl (Word.fieldX w) (Word.fieldY w))
  | _ => .error .invalidGroup8

/-- Group E is dispatched on `nn` (R94). -/
def decodeGroupE (w : Word) : Except DecodeError Instr :=
  match (Word.fieldNN w).toNat with
  | 0x9E => .ok (.skp (Word.fieldX w))
  | 0xA1 => .ok (.sknp (Word.fieldX w))
  | _ => .error .invalidGroupE

/-- Group F is dispatched on `nn` (R94). -/
def decodeGroupF (w : Word) : Except DecodeError Instr :=
  match (Word.fieldNN w).toNat with
  | 0x07 => .ok (.ldVxDT (Word.fieldX w))
  | 0x0A => .ok (.ldVxK (Word.fieldX w))
  | 0x15 => .ok (.ldDTVx (Word.fieldX w))
  | 0x18 => .ok (.ldSTVx (Word.fieldX w))
  | 0x1E => .ok (.addI (Word.fieldX w))
  | 0x29 => .ok (.ldF (Word.fieldX w))
  | 0x33 => .ok (.ldB (Word.fieldX w))
  | 0x55 => .ok (.store (Word.fieldX w))
  | 0x65 => .ok (.load (Word.fieldX w))
  | _ => .error .invalidGroupF

/-- `decode`, total on every word (R94). -/
def decode (w : Word) : Except DecodeError Instr :=
  match Word.fieldG w with
  | 0x0 => .ok (decodeGroup0 w)
  | 0x1 => .ok (.jp (Word.fieldNNN w))
  | 0x2 => .ok (.call (Word.fieldNNN w))
  | 0x3 => .ok (.seImm (Word.fieldX w) (Word.fieldNN w))
  | 0x4 => .ok (.sneImm (Word.fieldX w) (Word.fieldNN w))
  | 0x5 => if (Word.fieldN w).val = 0 then .ok (.seReg (Word.fieldX w) (Word.fieldY w)) else .error .invalidGroup5
  | 0x6 => .ok (.ldImm (Word.fieldX w) (Word.fieldNN w))
  | 0x7 => .ok (.addImm (Word.fieldX w) (Word.fieldNN w))
  | 0x8 => decodeGroup8 w
  | 0x9 => if (Word.fieldN w).val = 0 then .ok (.sneReg (Word.fieldX w) (Word.fieldY w)) else .error .invalidGroup9
  | 0xA => .ok (.ldI (Word.fieldNNN w))
  | 0xB => .ok (.jpV0 (Word.fieldNNN w))
  | 0xC => .ok (.rnd (Word.fieldX w) (Word.fieldNN w))
  | 0xD => .ok (.drw (Word.fieldX w) (Word.fieldY w) (Word.fieldN w))
  | 0xE => decodeGroupE w
  | _ => decodeGroupF w

/-- Decoding from bytes, most significant byte first; it consumes exactly 2 and returns the rest (R66, R90). -/
def decodeBytes : List Byte → Except DecodeError (Instr × List Byte)
  | hi :: lo :: rest =>
    match decode (Word.ofBytes hi lo) with
    | .ok i => .ok (i, rest)
    | .error e => .error e
  | _ => .error .truncated

/-- The instruction the decoder reads from an instruction whose bits are `w`, as spec/opcode_table.json numbers them:
one 16-bit word, stored most significant byte first (R66). -/
def decodeTableWord (nbits w : Nat) : Option Instr :=
  let word : Word := BitVec.ofNat 16 (w % 2 ^ nbits)
  match decodeBytes [Word.hiByte word, Word.loByte word] with
  | .ok (i, _) => some i
  | .error _ => none

/-! ## Encode: the word of each row of R95 -/

/-- A word of shape `W16-NNN`: group and address. -/
def encodeNNN (g : Nat) (nnn : Addr) : Word := BitVec.ofNat 16 (g * 0x1000 + nnn.toNat)

/-- A word of shape `W16-XNN` or `W16-X`: group, register, low byte. -/
def encodeXNN (g : Nat) (x : RegIdx) (nn : Nat) : Word := BitVec.ofNat 16 (g * 0x1000 + x.val * 0x100 + nn)

/-- A word of shape `W16-XYN`, `W16-XY0` or `W16-XYS`: group, two registers, low nibble. -/
def encodeXYN (g : Nat) (x y : RegIdx) (n : Nat) : Word :=
  BitVec.ofNat 16 (g * 0x1000 + x.val * 0x100 + y.val * 0x10 + n)

/-- The word of an instruction (R95). -/
def encode : Instr → Word
  | .cls => 0x00E0
  | .ret => 0x00EE
  | .sys nnn => encodeNNN 0x0 nnn
  | .jp nnn => encodeNNN 0x1 nnn
  | .call nnn => encodeNNN 0x2 nnn
  | .seImm x nn => encodeXNN 0x3 x nn.toNat
  | .sneImm x nn => encodeXNN 0x4 x nn.toNat
  | .seReg x y => encodeXYN 0x5 x y 0x0
  | .ldImm x nn => encodeXNN 0x6 x nn.toNat
  | .addImm x nn => encodeXNN 0x7 x nn.toNat
  | .ldReg x y => encodeXYN 0x8 x y 0x0
  | .orReg x y => encodeXYN 0x8 x y 0x1
  | .andReg x y => encodeXYN 0x8 x y 0x2
  | .xorReg x y => encodeXYN 0x8 x y 0x3
  | .addReg x y => encodeXYN 0x8 x y 0x4
  | .subReg x y => encodeXYN 0x8 x y 0x5
  | .shr x y => encodeXYN 0x8 x y 0x6
  | .subn x y => encodeXYN 0x8 x y 0x7
  | .shl x y => encodeXYN 0x8 x y 0xE
  | .sneReg x y => encodeXYN 0x9 x y 0x0
  | .ldI nnn => encodeNNN 0xA nnn
  | .jpV0 nnn => encodeNNN 0xB nnn
  | .rnd x nn => encodeXNN 0xC x nn.toNat
  | .drw x y n => encodeXYN 0xD x y n.val
  | .skp x => encodeXNN 0xE x 0x9E
  | .sknp x => encodeXNN 0xE x 0xA1
  | .ldVxDT x => encodeXNN 0xF x 0x07
  | .ldVxK x => encodeXNN 0xF x 0x0A
  | .ldDTVx x => encodeXNN 0xF x 0x15
  | .ldSTVx x => encodeXNN 0xF x 0x18
  | .addI x => encodeXNN 0xF x 0x1E
  | .ldF x => encodeXNN 0xF x 0x29
  | .ldB x => encodeXNN 0xF x 0x33
  | .store x => encodeXNN 0xF x 0x55
  | .load x => encodeXNN 0xF x 0x65

/-- The two bytes of an instruction in memory order (R66). -/
def encodeBytes (i : Instr) : List Byte := [Word.hiByte (encode i), Word.loByte (encode i)]

/-! ## The opcode map as data (R95) -/

/-- A row of the opcode map: its number, match, mask and the words it excludes (R95). -/
structure OpcodeRow where
  /-- the row's number in R95, 1 to 35 -/
  number : Nat
  /-- the match of R95 -/
  value : Word
  /-- the mask of R95 -/
  mask : Word
  /-- words that match and are not this instruction (`0NNN` alone has any) -/
  exclude : List Word
  deriving DecidableEq, Repr

/-- The word is the row's instruction (R95): `word AND mask = match`, the excluded words apart. -/
def OpcodeRow.covers (r : OpcodeRow) (w : Word) : Bool := (w &&& r.mask) == r.value && !r.exclude.contains w

/-- Rows 1 to 12 of R95. -/
def opcodeRowsA : List OpcodeRow := [
  ⟨1, 0x00E0, 0xFFFF, []⟩, ⟨2, 0x00EE, 0xFFFF, []⟩, ⟨3, 0x0000, 0xF000, [0x00E0, 0x00EE]⟩, ⟨4, 0x1000, 0xF000, []⟩,
  ⟨5, 0x2000, 0xF000, []⟩, ⟨6, 0x3000, 0xF000, []⟩, ⟨7, 0x4000, 0xF000, []⟩, ⟨8, 0x5000, 0xF00F, []⟩,
  ⟨9, 0x6000, 0xF000, []⟩, ⟨10, 0x7000, 0xF000, []⟩, ⟨11, 0x8000, 0xF00F, []⟩, ⟨12, 0x8001, 0xF00F, []⟩]

/-- Rows 13 to 24 of R95. -/
def opcodeRowsB : List OpcodeRow := [
  ⟨13, 0x8002, 0xF00F, []⟩, ⟨14, 0x8003, 0xF00F, []⟩, ⟨15, 0x8004, 0xF00F, []⟩, ⟨16, 0x8005, 0xF00F, []⟩,
  ⟨17, 0x8006, 0xF00F, []⟩, ⟨18, 0x8007, 0xF00F, []⟩, ⟨19, 0x800E, 0xF00F, []⟩, ⟨20, 0x9000, 0xF00F, []⟩,
  ⟨21, 0xA000, 0xF000, []⟩, ⟨22, 0xB000, 0xF000, []⟩, ⟨23, 0xC000, 0xF000, []⟩, ⟨24, 0xD000, 0xF000, []⟩]

/-- Rows 25 to 35 of R95. -/
def opcodeRowsC : List OpcodeRow := [
  ⟨25, 0xE09E, 0xF0FF, []⟩, ⟨26, 0xE0A1, 0xF0FF, []⟩, ⟨27, 0xF007, 0xF0FF, []⟩, ⟨28, 0xF00A, 0xF0FF, []⟩,
  ⟨29, 0xF015, 0xF0FF, []⟩, ⟨30, 0xF018, 0xF0FF, []⟩, ⟨31, 0xF01E, 0xF0FF, []⟩, ⟨32, 0xF029, 0xF0FF, []⟩,
  ⟨33, 0xF033, 0xF0FF, []⟩, ⟨34, 0xF055, 0xF0FF, []⟩, ⟨35, 0xF065, 0xF0FF, []⟩]

/-- The complete opcode map (R95). -/
def opcodeTable : List OpcodeRow := opcodeRowsA ++ opcodeRowsB ++ opcodeRowsC

/-- The number of an instruction's row in R95. -/
def Instr.rowNumber : Instr → Nat
  | .cls => 1
  | .ret => 2
  | .sys _ => 3
  | .jp _ => 4
  | .call _ => 5
  | .seImm _ _ => 6
  | .sneImm _ _ => 7
  | .seReg _ _ => 8
  | .ldImm _ _ => 9
  | .addImm _ _ => 10
  | .ldReg _ _ => 11
  | .orReg _ _ => 12
  | .andReg _ _ => 13
  | .xorReg _ _ => 14
  | .addReg _ _ => 15
  | .subReg _ _ => 16
  | .shr _ _ => 17
  | .subn _ _ => 18
  | .shl _ _ => 19
  | .sneReg _ _ => 20
  | .ldI _ => 21
  | .jpV0 _ => 22
  | .rnd _ _ => 23
  | .drw _ _ _ => 24
  | .skp _ => 25
  | .sknp _ => 26
  | .ldVxDT _ => 27
  | .ldVxK _ => 28
  | .ldDTVx _ => 29
  | .ldSTVx _ => 30
  | .addI _ => 31
  | .ldF _ => 32
  | .ldB _ => 33
  | .store _ => 34
  | .load _ => 35

end Sys2Proof
end

