-- ==== Sys2Proof/Config.lean ====
section
/-! DEFINITION. What is fixed for a machine: the sizes of spec/00_scope.md R7, the two parameters FONT and FLAG_LAST with
their defaults, what an unlisted memory address reads as, and the free random byte. -/

namespace Sys2Proof

/-- `MEM_SIZE` (R7): memory bytes. -/
def Config.memSize : Nat := 4096

/-- `PROG_START` (R7): program start and reset `pc`. -/
def Config.progStart : Nat := 0x200

/-- `MEM_SIZE − PROG_START` (R7, R353): the longest program image. -/
def Config.maxImage : Nat := 3584

/-- `MEM_SIZE − 2` (R91): the last address a fetch may start at. -/
def Config.lastFetch : Nat := 4094

/-- `FONT_BASE` (R7, R352). -/
def Config.fontBase : Nat := 0

/-- The default `FONT` of spec/70_reset_and_hazards.md R352: 16 glyphs of 5 bytes, glyph d at 5d.
PRESUMED: the byte values are the spec's general knowledge, not its source's (D28, log 5). Unsafe. -/
def Config.defaultFont : Vector Byte 80 := #v[
  0xF0, 0x90, 0x90, 0x90, 0xF0,   0x20, 0x60, 0x20, 0x20, 0x70,
  0xF0, 0x10, 0xF0, 0x80, 0xF0,   0xF0, 0x10, 0xF0, 0x10, 0xF0,
  0x90, 0x90, 0xF0, 0x10, 0x10,   0xF0, 0x80, 0xF0, 0x10, 0xF0,
  0xF0, 0x80, 0xF0, 0x90, 0xF0,   0xF0, 0x10, 0x20, 0x40, 0x40,
  0xF0, 0x90, 0xF0, 0x90, 0xF0,   0xF0, 0x90, 0xF0, 0x10, 0xF0,
  0xF0, 0x90, 0xF0, 0x90, 0x90,   0xE0, 0x90, 0xE0, 0x90, 0xE0,
  0xF0, 0x80, 0x80, 0x80, 0xF0,   0xE0, 0x90, 0x90, 0x90, 0xE0,
  0xF0, 0x80, 0xF0, 0x80, 0xF0,   0xF0, 0x80, 0xF0, 0x80, 0x80]

/-- The parameters a model takes as arguments (R7, spec/92_eei_decisions.md): fixed for a machine, written by no
operation. They are plain data carried in the state (log 7), so that a statement over all states holds for
every value of both. -/
structure Params where
  /-- `FONT`, the 80 bytes RESET copies to 0x000 (R352). -/
  font : Vector Byte 80
  /-- `FLAG_LAST`: false writes `VF` before `Vx` in `8XY4` to `8XYE`, true writes it after (R103). -/
  flagLast : Bool
  deriving DecidableEq, Repr

/-- The default parameters (R7). DESIGN CHOICE (D9 for `flagLast`, log 6), PRESUMED (D28 for `font`, log 5). Unsafe:
a hardware with other values differs where they show. -/
def Config.defaultParams : Params := { font := Config.defaultFont, flagLast := false }

/-- What address `a` holds after RESET with the default font (R40, R64): the font at 0x000 to 0x04F, 0 elsewhere. It is
what an address the memory list does not name reads as (log 8). -/
def Config.resetByte (a : Nat) : Byte := Config.defaultFont.toList.getD a 0

/-- The random source of `CXNN` (spec/42_alu.md R181): the byte that draw number `k` gives. A FREE VALUE: it has no body,
so nothing can evaluate it or prove a value of it (D18, log 4). -/
opaque Config.randomByte : Nat → Byte

end Sys2Proof
end

