-- ==== Sys2Proof/Machine/State.lean ====
section
/-! DEFINITION. The machine state (spec/10_state.md), the faults and refusals, and the state after reset. -/

namespace Sys2Proof.Machine

/-- The four faults with the information each reports (spec/60_exceptions.md R300). A fault is TAKEN: the step
answers a next state in which `halted` is set and the fault is the last outcome (R305, log 1). No step of this model
answers `Host.Outcome.fault`. -/
inductive Fault where
  /-- code 1: the fetched word decodes to Invalid. Raised by `step` at decode (R301). Safe: the spec's own fault. -/
  | invalidInstruction (word pc : Word)
  /-- code 2: `2NNN` with `SP = 16`. Raised by `execCall` (R302). Safe: the spec's own fault. -/
  | stackOverflow (pc word : Word)
  /-- code 3: `00EE` with `SP = 0`. Raised by `execRet` (R303, D11). Safe: it stops where the alternative goes on. -/
  | stackUnderflow (pc word : Word)
  /-- code 4: `pc > 4094` before a fetch. Raised by `step` (R304). Safe: the spec's own fault. -/
  | pcOutOfRange (pc : Word)
  deriving DecidableEq, Repr

/-- The code of a fault (R300, D19). -/
def Fault.code : Fault → Nat
  | .invalidInstruction _ _ => 1
  | .stackOverflow _ _ => 2
  | .stackUnderflow _ _ => 3
  | .pcOutOfRange _ => 4

/-- The operation that the diagnostic of a stack fault names (R300, R302). -/
inductive StackOperation where
  /-- subroutine call, `2NNN` -/
  | call
  /-- return, `00EE` -/
  | ret
  deriving DecidableEq, Repr

/-- The operation a fault names: call or return for the stack faults, none for the others (R300). -/
def Fault.operation : Fault → Option StackOperation
  | .invalidInstruction _ _ => none
  | .stackOverflow _ _ => some .call
  | .stackUnderflow _ _ => some .ret
  | .pcOutOfRange _ => none

/-- Why an operation has no effect. -/
inductive Refusal where
  /-- `Refused(AlreadyHalted)`: STEP on a halted machine. Raised by `step` (R307, D22). Safe: the spec's own outcome. -/
  | alreadyHalted
  /-- SET_KEY with an index outside 0 to 15. Raised by `setKey` (R317, D27). Safe within the contract (H1). -/
  | keyIndexOutOfContract (index : Nat)
  /-- An instruction without a meaning yet. Raised by an arm of `exec`; no arm does. Safe. -/
  | notModelled (mnemonic : String)
  deriving DecidableEq, Repr

/-- What a STEP that ran an instruction or raised a fault returned (R11). -/
inductive StepOutcome where
  /-- `Ok`: the instruction completed, a `FX0A` poll without a key included -/
  | ok
  /-- `Fault(kind, info)` -/
  | fault (f : Fault)
  deriving DecidableEq, Repr

/-- Memory as a list of cells in canonical form: addresses strictly rising and below 4096, no cell equal to what its
address holds after RESET (log 8). `Memory.wf` in Machine/Ops.lean says so. -/
abbrev Memory := List Host.Cell

/-- `MachineState` (R20), the two observations the spec allows (R35, R36), and the model's own `draws` and `params`.
No field is a clock, a cycle counter, a rate or a pending result: the model has no clock (R359), and `executed` counts
STEPs, which nothing reads. -/
structure State where
  /-- `V[0..15]` (R22) -/
  v : Vector Byte 16
  /-- `I` (R25) -/
  index : Word
  /-- `pc` (R26) -/
  pc : Word
  /-- `SP`, 0 to 16 (R28) -/
  sp : Fin 17
  /-- `stack[0..15]` (R29) -/
  stack : Vector Word 16
  /-- `M[0..4095]` (R60) -/
  mem : Memory
  /-- `display[row][column]` (R32) -/
  display : Vector (Vector Bool 64) 32
  /-- `DT`, the delay timer (R30) -/
  dt : Byte
  /-- `ST`, the sound timer (R30) -/
  st : Byte
  /-- `key[0..15]` (R33) -/
  key : Vector Bool 16
  /-- `halted` (R34) -/
  halted : Bool
  /-- the last outcome of STEP, an observation (R35, D3, log 2) -/
  lastOutcome : Option StepOutcome
  /-- the instruction counter, a diagnostic (R36, D4, log 3) -/
  executed : Nat
  /-- the model's own: how many random bytes were drawn (R181, D18, log 4) -/
  draws : Nat
  /-- the model's own: the machine's fixed parameters (R7, log 7) -/
  params : Params
  deriving DecidableEq, Repr

/-- The state right after RESET with the default parameters (R40). Memory lists nothing: an unlisted address reads as
its reset content. `draws` has no value in the spec: DESIGN CHOICE 0, log 4. -/
def State.reset : State where
  v := Vector.replicate 16 0
  index := 0
  pc := 0x200
  sp := 0
  stack := Vector.replicate 16 0
  mem := []
  display := Vector.replicate 32 (Vector.replicate 64 false)
  dt := 0
  st := 0
  key := Vector.replicate 16 false
  halted := false
  lastOutcome := none
  executed := 0
  draws := 0
  params := Config.defaultParams

end Sys2Proof.Machine
end

