-- ==== Sys2Proof/Machine/Ops.lean ====
section
/-! DEFINITION. The named operations over memory, registers, stack, display and outcome that every meaning is written
with, and taking a fault as ONE shared operation (spec/60_exceptions.md R305). -/

namespace Sys2Proof.Machine

/-! ## Memory (spec/20_memory.md) -/

/-- An address as every access uses it: reduced modulo 4096 (R61). -/
def Memory.wrap (a : Nat) : Nat := a % Config.memSize

/-- The cell the list names for address `a`, if any. -/
def Memory.cell? : Memory → Nat → Option Byte
  | [], _ => none
  | (b, v) :: m, a => if a = b then some v else Memory.cell? m a

/-- The byte at an address below 4096: the listed cell, else the reset content. -/
def Memory.peek (m : Memory) (a : Nat) : Byte := (Memory.cell? m a).getD (Config.resetByte a)

/-- `MemRead(a, 1) = M[a mod 4096]` (R61). -/
def Memory.read (m : Memory) (a : Nat) : Byte := Memory.peek m (Memory.wrap a)

/-- Put a byte at an address below 4096, keeping the list canonical: a byte equal to the reset content is not listed. -/
def Memory.poke : Memory → Nat → Byte → Memory
  | [], a, v => if v = Config.resetByte a then [] else [(a, v)]
  | (b, w) :: m, a, v =>
    if a < b then
      if v = Config.resetByte a then (b, w) :: m else (a, v) :: (b, w) :: m
    else if a = b then
      if v = Config.resetByte a then m else (a, v) :: m
    else (b, w) :: Memory.poke m a v

/-- `MemWrite(a, 1, v) : M[a mod 4096] <- v` (R61). -/
def Memory.write (m : Memory) (a : Nat) (v : Byte) : Memory := Memory.poke m (Memory.wrap a) v

/-- The address of the j-th byte of an access from `base`: `(base + j) mod 4096` (R216). -/
def Memory.ea (base j : Nat) : Nat := Memory.wrap (base + j)

/-- Write the bytes `vs` from offset `j` of `base` on, in increasing j (R68). -/
def Memory.writeFrom (m : Memory) (base j : Nat) : List Byte → Memory
  | [] => m
  | v :: vs => Memory.writeFrom (Memory.write m (Memory.ea base j) v) base (j + 1) vs

/-- Read `count` bytes from `base` on, in increasing j (R68). -/
def Memory.readFrom (m : Memory) (base count : Nat) : List Byte :=
  (List.range count).map fun j => Memory.read m (Memory.ea base j)

/-- The canonical form: addresses strictly rising and below 4096, no cell equal to its address's reset content. -/
abbrev Memory.wf (m : Memory) : Prop :=
  m.Pairwise (fun c d => c.1 < d.1) ∧ ∀ c ∈ m, c.1 < Config.memSize ∧ c.2 ≠ Config.resetByte c.1

/-- The byte a program, a fetch or a host sees at address `a` of the machine. -/
def State.byteAt (s : State) (a : Nat) : Byte := Memory.read s.mem a

/-- Effective address of the j-th byte of a data access: `(I + j) mod 4096` (R216). -/
def State.ea (s : State) (j : Nat) : Nat := Memory.ea s.index.toNat j

/-- Store bytes from `I` on (R213, R214). -/
def State.storeAtIndex (s : State) (vs : List Byte) : State :=
  { s with mem := Memory.writeFrom s.mem s.index.toNat 0 vs }

/-- Read bytes from `I` on (R215, R241). -/
def State.loadAtIndex (s : State) (count : Nat) : List Byte := Memory.readFrom s.mem s.index.toNat count

/-! ## Registers (spec/10_state.md R22, R25, R26) -/

/-- `V[x]`. -/
def State.reg (s : State) (x : RegIdx) : Byte := s.v[x]

/-- `V[x] <- b`. No register is hard-wired. -/
def State.setReg (s : State) (x : RegIdx) (b : Byte) : State := { s with v := s.v.set x b }

/-- `V[j] <- bs[j]` for every j below the list's length; the other registers keep their value (R215). -/
def State.setFirstRegs (s : State) (bs : List Byte) : State :=
  { s with v := Vector.ofFn fun j : Fin 16 => bs.getD j.val s.v[j] }

/-- The values of `V[0]` to `V[x]` in increasing index (R214). -/
def State.firstRegs (s : State) (x : RegIdx) : List Byte := s.v.toList.take (x.val + 1)

/-- `I <- w`. -/
def State.setIndex (s : State) (w : Word) : State := { s with index := w }

/-- `pc <- w`, 16-bit (R101). -/
def State.setPc (s : State) (w : Word) : State := { s with pc := w }

/-- The plain advance, `pc <- pc + 2` (R99). -/
def State.advance (s : State) : State := s.setPc (s.pc + 2)

/-- A skip: `pc <- c ? pc + 4 : pc + 2` (R99, R100). -/
def State.skipIf (s : State) (c : Bool) : State := s.setPc (if c then s.pc + 4 else s.pc + 2)

/-! ## Call stack (spec/10_state.md R28, R29) -/

/-- `stack[SP] <- w; SP <- SP + 1`, or none when `SP = 16`. -/
def State.push (s : State) (w : Word) : Option State :=
  if h : s.sp.val < 16 then
    some { s with stack := s.stack.set s.sp.val w h, sp := ⟨s.sp.val + 1, by omega⟩ }
  else none

/-- `SP <- SP - 1` and the entry then at `stack[SP]`, or none when `SP = 0`. The entry is not cleared. -/
def State.pop (s : State) : Option (Word × State) :=
  if h : s.sp.val = 0 then none
  else some (s.stack[s.sp.val - 1]'(by omega), { s with sp := ⟨s.sp.val - 1, by omega⟩ })

/-! ## Timers and keypad -/

/-- `DT <- b` (R264). -/
def State.setDT (s : State) (b : Byte) : State := { s with dt := b }

/-- `ST <- b` (R265). -/
def State.setST (s : State) (b : Byte) : State := { s with st := b }

/-- The least pressed key, if any (R262). -/
def State.lowestKey (s : State) : Option (Fin 16) := (List.finRange 16).find? fun k => s.key[k]

/-! ## Display (spec/44_display.md) -/

/-- The display grid (R32). -/
abbrev Grid := Vector (Vector Bool 64) 32

/-- The pixel at row `r`, column `c`; false off the grid. -/
def Grid.pixel (g : Grid) (r c : Nat) : Bool :=
  if h : r < 32 ∧ c < 64 then (g[r]'h.1)[c]'h.2 else false

/-- The grid with every pixel off (R240). -/
def Grid.clear : Grid := Vector.replicate 32 (Vector.replicate 64 false)

/-- The grid with one pixel inverted; nothing happens off the grid: clipped, not wrapped (R243). -/
def Grid.flip (g : Grid) (r c : Nat) : Grid :=
  if h : r < 32 ∧ c < 64 then g.set r ((g[r]'h.1).set c (!((g[r]'h.1)[c]'h.2)) h.2) h.1 else g

/-- A draw in progress: the grid and whether a lit pixel was turned off so far (R241, R244). -/
structure Canvas where
  /-- the grid so far -/
  grid : Grid
  /-- `collided` -/
  collided : Bool
  deriving DecidableEq, Repr

/-- Invert the pixel at row `r`, column `c`, recording a collision if it was on (R241, R244). -/
def Canvas.plot (k : Canvas) (r c : Nat) : Canvas :=
  { grid := Grid.flip k.grid r c, collided := k.collided || Grid.pixel k.grid r c }

/-- Bit offset `b` of a sprite row is bit `7 − b` of the byte: the most significant bit is leftmost (R242).
DESIGN CHOICE of the spec, D14, log 20. -/
def spriteBit (row : Byte) (b : Nat) : Bool := row.getLsbD (7 - b)

/-- Draw one sprite row at screen row `r` from column `cx` on: each 1 bit plots its pixel (R241). -/
def Canvas.drawRow (k : Canvas) (r cx : Nat) (row : Byte) : Canvas :=
  (List.range 8).foldl (fun k b => if spriteBit row b then Canvas.plot k r (cx + b) else k) k

/-- Draw sprite rows downward from screen row `cy` (R241). -/
def Canvas.drawRows (k : Canvas) (cy cx : Nat) : List Byte → Canvas
  | [] => k
  | row :: rows => Canvas.drawRows (Canvas.drawRow k cy cx row) (cy + 1) cx rows

/-! ## The random source -/

/-- `draw()` (R181): the next free byte, and the state that has taken it. -/
def State.draw (s : State) : Byte × State := (Config.randomByte s.draws, { s with draws := s.draws + 1 })

/-! ## Outcomes -/

/-- TAKING A FAULT (R305): `halted <- 1`, the fault is the outcome, nothing else changes. There is no return from a
fault but RESET (R306, R308). -/
def State.takeFault (s : State) (f : Fault) : State := { s with halted := true, lastOutcome := some (.fault f) }

/-- STEP returns `Ok`: the outcome is recorded and the instruction counted (R35, R36). -/
def State.retire (s : State) : State := { s with lastOutcome := some .ok, executed := s.executed + 1 }

/-- The end of a STEP whose handler has run (R102): `Ok` unless the handler took a fault. -/
def closeStep : Host.Outcome State Fault Refusal → Host.Outcome State Fault Refusal
  | .next s => .next (if s.halted then s else s.retire)
  | .fault f => .fault f
  | .refused r => .refused r

/-- The word at `pc`: two bytes, most significant first (R91). -/
def State.fetch (s : State) : Word := Word.ofBytes (s.byteAt s.pc.toNat) (s.byteAt (s.pc.toNat + 1))

end Sys2Proof.Machine
end

