-- ==== Sys2Proof/Machine/Operands.lean ====
section
/-! DEFINITION. The operand forms (spec/30_encoding.md R93, spec/42_alu.md, spec/45_keypad_timer.md R266). Registers are
read by `State.reg`, data memory by `State.ea` (Machine/Ops.lean); an immediate `nn` is used as is. -/

namespace Sys2Proof.Machine

/-- The selector of `VF` (R9). -/
def regVF : RegIdx := 15

/-- The selector of `V0`, the offset register of `BNNN` (R138). -/
def regV0 : RegIdx := 0

/-- `nnn` zero-extended to 16 bits (R93). -/
def addrOperand (nnn : Addr) : Word := nnn.setWidth 16

/-- Register `Vx` zero-extended to 16 bits, for the 16-bit sums of `BNNN` and `FX1E` (R138, R211). -/
def State.regWord (s : State) (x : RegIdx) : Word := (s.reg x).setWidth 16

/-- Whether the key whose index is in `Vx` is pressed; an index of 16 or more names no key and is not pressed (R266).
DESIGN CHOICE of the spec, D16, log 22. -/
def State.keyOperand (s : State) (x : RegIdx) : Bool :=
  if h : (s.reg x).toNat < 16 then s.key[(s.reg x).toNat] else false

/-- The three decimal digits of a byte: hundreds, tens, units (R213). -/
def digits (a : Byte) : List Byte :=
  [BitVec.ofNat 8 (a.toNat / 100), BitVec.ofNat 8 (a.toNat / 10 % 10), BitVec.ofNat 8 (a.toNat % 10)]

/-- The address of the glyph of `a`: `a × 5`, exact in 16 bits, no mask (R212). DESIGN CHOICE of the spec, D13, log 19. -/
def glyphAddress (a : Byte) : Word := BitVec.ofNat 16 (a.toNat * 5)

end Sys2Proof.Machine
end

