-- ==== Sys2Proof/Machine/Flags.lean ====
section
/-! DEFINITION. The flag-producing computations of `8XY4` to `8XYE` (spec/42_alu.md R176 to R180), computed exactly and
reduced to 8 bits, and the two orders of writing `VF` and `Vx` (spec/30_encoding.md R103). -/

namespace Sys2Proof.Machine

/-- The 8-bit result of an ALU operation and its flag. -/
structure AluResult where
  /-- the result, written to `Vx` -/
  value : Byte
  /-- the flag, written to `VF` as 0 or 1 (R24) -/
  flag : Bool
  deriving DecidableEq, Repr

/-- `a + b`: the flag is the carry out of bit 7, `sum > 255` (R176). -/
def addCarry (a b : Byte) : AluResult :=
  { value := BitVec.ofNat 8 (a.toNat + b.toNat), flag := decide (a.toNat + b.toNat > 255) }

/-- `a − b`, plus 256 when `a < b`: the flag is 1 when there is no borrow, `a ≥ b` (R177, R179). -/
def subNoBorrow (a b : Byte) : AluResult :=
  { value := BitVec.ofNat 8 (a.toNat + 256 - b.toNat), flag := decide (a.toNat ≥ b.toNat) }

/-- `a div 2`: the flag is bit 0 before the shift, `a mod 2` (R178). -/
def shiftRight (a : Byte) : AluResult :=
  { value := BitVec.ofNat 8 (a.toNat / 2), flag := decide (a.toNat % 2 = 1) }

/-- `(a × 2) mod 256`: the flag is bit 7 before the shift, `a div 128` (R180). -/
def shiftLeft (a : Byte) : AluResult :=
  { value := BitVec.ofNat 8 (a.toNat * 2), flag := decide (a.toNat / 128 = 1) }

/-- A flag as the byte `VF` takes: 0 or 1 (R24). -/
def flagByte (f : Bool) : Byte := if f then 1 else 0

/-- Write the flag and the result (R103): `VF` then `Vx`, or `Vx` then `VF` when the machine's parameter `FLAG_LAST`
is true. The order shows only when `x = 15`. DESIGN CHOICE of the spec, D9, log 6. -/
def State.writeFlagged (s : State) (x : RegIdx) (r : AluResult) : State :=
  if s.params.flagLast then (s.setReg x r.value).setReg regVF (flagByte r.flag)
  else (s.setReg regVF (flagByte r.flag)).setReg x r.value

end Sys2Proof.Machine
end

