-- ==== Sys2Proof/Machine/Alu.lean ====
section
/-! DEFINITION. Register and ALU instructions (spec/42_alu.md). Every operand is read from the state at the start (R103). -/

namespace Sys2Proof.Machine

/-- `6XNN` (R170). -/
def execLdImm (x : RegIdx) (nn : Byte) (s : State) : Host.Outcome State Fault Refusal := .next (s.setReg x nn).advance

/-- `7XNN` (R171): the sum modulo 256, no flag. -/
def execAddImm (x : RegIdx) (nn : Byte) (s : State) : Host.Outcome State Fault Refusal :=
  .next (s.setReg x (addCarry (s.reg x) nn).value).advance

/-- `8XY0` (R172). -/
def execLdReg (x y : RegIdx) (s : State) : Host.Outcome State Fault Refusal := .next (s.setReg x (s.reg y)).advance

/-- `8XY1` (R173): `VF` is not written unless it is `Vx`. -/
def execOrReg (x y : RegIdx) (s : State) : Host.Outcome State Fault Refusal := .next (s.setReg x (s.reg x ||| s.reg y)).advance

/-- `8XY2` (R174). -/
def execAndReg (x y : RegIdx) (s : State) : Host.Outcome State Fault Refusal := .next (s.setReg x (s.reg x &&& s.reg y)).advance

/-- `8XY3` (R175). -/
def execXorReg (x y : RegIdx) (s : State) : Host.Outcome State Fault Refusal := .next (s.setReg x (s.reg x ^^^ s.reg y)).advance

/-- `8XY4` (R176). -/
def execAddReg (x y : RegIdx) (s : State) : Host.Outcome State Fault Refusal :=
  .next (s.writeFlagged x (addCarry (s.reg x) (s.reg y))).advance

/-- `8XY5` (R177). -/
def execSubReg (x y : RegIdx) (s : State) : Host.Outcome State Fault Refusal :=
  .next (s.writeFlagged x (subNoBorrow (s.reg x) (s.reg y))).advance

/-- `8XY6` (R178): the shift is of `Vx`; `y` is ignored. -/
def execShr (x _y : RegIdx) (s : State) : Host.Outcome State Fault Refusal :=
  .next (s.writeFlagged x (shiftRight (s.reg x))).advance

/-- `8XY7` (R179). -/
def execSubn (x y : RegIdx) (s : State) : Host.Outcome State Fault Refusal :=
  .next (s.writeFlagged x (subNoBorrow (s.reg y) (s.reg x))).advance

/-- `8XYE` (R180): the shift is of `Vx`; `y` is ignored. -/
def execShl (x _y : RegIdx) (s : State) : Host.Outcome State Fault Refusal :=
  .next (s.writeFlagged x (shiftLeft (s.reg x))).advance

/-- `CXNN` (R181): a free byte AND `nn` (D18, log 4). -/
def execRnd (x : RegIdx) (nn : Byte) (s : State) : Host.Outcome State Fault Refusal :=
  .next (s.draw.2.setReg x (s.draw.1 &&& nn)).advance

end Sys2Proof.Machine
end

