-- ==== Sys2Proof/Machine/Control.lean ====
section
/-! DEFINITION. Control transfer (spec/41_control.md): the no-op, jumps, call and return, and the register skips. -/

namespace Sys2Proof.Machine

/-- `0NNN`: no operation; `nnn` is ignored (R130). -/
def execSys (_nnn : Addr) (s : State) : Host.Outcome State Fault Refusal := .next s.advance

/-- `00EE` (R131): pop `pc`, not advanced further; with an empty stack take StackUnderflow (D11, log 17). -/
def execRet (s : State) : Host.Outcome State Fault Refusal :=
  match s.pop with
  | some (target, t) => .next (t.setPc target)
  | none => .next (s.takeFault (.stackUnderflow s.pc (encode .ret)))

/-- `1NNN` (R132): `pc <- nnn`. -/
def execJp (nnn : Addr) (s : State) : Host.Outcome State Fault Refusal := .next (s.setPc (addrOperand nnn))

/-- `2NNN` (R133): push `pc + 2`, `pc <- nnn`; with a full stack take StackOverflow. The word reported is the
instruction's own (log 15). -/
def execCall (nnn : Addr) (s : State) : Host.Outcome State Fault Refusal :=
  match s.push (s.pc + 2) with
  | some t => .next (t.setPc (addrOperand nnn))
  | none => .next (s.takeFault (.stackOverflow s.pc (encode (.call nnn))))

/-- `3XNN` (R134). -/
def execSeImm (x : RegIdx) (nn : Byte) (s : State) : Host.Outcome State Fault Refusal := .next (s.skipIf (s.reg x == nn))

/-- `4XNN` (R135). -/
def execSneImm (x : RegIdx) (nn : Byte) (s : State) : Host.Outcome State Fault Refusal := .next (s.skipIf (s.reg x != nn))

/-- `5XY0` (R136). -/
def execSeReg (x y : RegIdx) (s : State) : Host.Outcome State Fault Refusal := .next (s.skipIf (s.reg x == s.reg y))

/-- `9XY0` (R137). -/
def execSneReg (x y : RegIdx) (s : State) : Host.Outcome State Fault Refusal := .next (s.skipIf (s.reg x != s.reg y))

/-- `BNNN` (R138): `pc <- nnn + V0`, 16-bit, not reduced modulo 4096. -/
def execJpV0 (nnn : Addr) (s : State) : Host.Outcome State Fault Refusal := .next (s.setPc (addrOperand nnn + s.regWord regV0))

end Sys2Proof.Machine
end

