-- ==== Sys2Proof/Machine/Display.lean ====
section
/-! DEFINITION. Display instructions (spec/44_display.md). -/

namespace Sys2Proof.Machine

/-- `00E0` (R240): every pixel off. -/
def execCls (s : State) : Host.Outcome State Fault Refusal := .next { s with display := Grid.clear }.advance

/-- The sprite of `DXYN` drawn on the display: `n` rows from `I`, at column `Vx` and row `Vy` (R241). -/
def spriteCanvas (x y : RegIdx) (n : Fin 16) (s : State) : Canvas :=
  Canvas.drawRows { grid := s.display, collided := false } (s.reg y).toNat (s.reg x).toNat (s.loadAtIndex n.val)

/-- `DXYN` (R241): `VF` is written after every pixel, always. `n = 0` draws nothing (D15, log 21). -/
def execDrw (x y : RegIdx) (n : Fin 16) (s : State) : Host.Outcome State Fault Refusal :=
  .next ({ s with display := (spriteCanvas x y n s).grid }.setReg regVF
    (flagByte (spriteCanvas x y n s).collided)).advance

end Sys2Proof.Machine
end

