-- ==== Sys2Proof/Machine/IndexMemory.lean ====
section
/-! DEFINITION. Index register and memory instructions (spec/43_index_memory.md). -/

namespace Sys2Proof.Machine

/-- `ANNN` (R210). -/
def execLdI (nnn : Addr) (s : State) : Host.Outcome State Fault Refusal := .next (s.setIndex (addrOperand nnn)).advance

/-- `FX1E` (R211): the sum modulo 65536; `VF` is not written. DESIGN CHOICE of the spec, D12, log 18. -/
def execAddI (x : RegIdx) (s : State) : Host.Outcome State Fault Refusal := .next (s.setIndex (s.index + s.regWord x)).advance

/-- `FX29` (R212). -/
def execLdF (x : RegIdx) (s : State) : Host.Outcome State Fault Refusal := .next (s.setIndex (glyphAddress (s.reg x))).advance

/-- `FX33` (R213): hundreds, tens, units at `I`, `I + 1`, `I + 2`. -/
def execLdB (x : RegIdx) (s : State) : Host.Outcome State Fault Refusal := .next (s.storeAtIndex (digits (s.reg x))).advance

/-- `FX55` (R214): `V0` to `Vx` from `I` on; `I` is not changed. -/
def execStore (x : RegIdx) (s : State) : Host.Outcome State Fault Refusal := .next (s.storeAtIndex (s.firstRegs x)).advance

/-- `FX65` (R215): `V0` to `Vx` from memory at `I` on; `I` is not changed. -/
def execLoad (x : RegIdx) (s : State) : Host.Outcome State Fault Refusal :=
  .next (s.setFirstRegs (s.loadAtIndex (x.val + 1))).advance

end Sys2Proof.Machine
end

