-- ==== Sys2Proof/Machine/KeypadTimer.lean ====
section
/-! DEFINITION. Keypad and timer instructions (spec/45_keypad_timer.md). -/

namespace Sys2Proof.Machine

/-- `EX9E` (R260). -/
def execSkp (x : RegIdx) (s : State) : Host.Outcome State Fault Refusal := .next (s.skipIf (s.keyOperand x))

/-- `EXA1` (R261). -/
def execSknp (x : RegIdx) (s : State) : Host.Outcome State Fault Refusal := .next (s.skipIf (!s.keyOperand x))

/-- `FX0A` (R262): with a key pressed, its least index into `Vx`; with none, nothing is written and `pc` stays.
Level-sensitive: DESIGN CHOICE of the spec, D17, log 23. -/
def execLdVxK (x : RegIdx) (s : State) : Host.Outcome State Fault Refusal :=
  match s.lowestKey with
  | some k => .next (s.setReg x (BitVec.ofNat 8 k.val)).advance
  | none => .next s

/-- `FX07` (R263). -/
def execLdVxDT (x : RegIdx) (s : State) : Host.Outcome State Fault Refusal := .next (s.setReg x s.dt).advance

/-- `FX15` (R264). -/
def execLdDTVx (x : RegIdx) (s : State) : Host.Outcome State Fault Refusal := .next (s.setDT (s.reg x)).advance

/-- `FX18` (R265). -/
def execLdSTVx (x : RegIdx) (s : State) : Host.Outcome State Fault Refusal := .next (s.setST (s.reg x)).advance

end Sys2Proof.Machine
end

