-- ==== Sys2Proof/Machine/Step.lean ====
section
/-! DEFINITION. STEP (spec/30_encoding.md R102): one instruction. What it calls (fetch, decode, fault entry, the close of
the step) stands in Machine/Ops.lean and Decode.lean. -/

namespace Sys2Proof.Machine

/-- STEP (R102), with the checks in the order of R309: halted, PcOutOfRange, InvalidInstruction, then the handler.
A STEP is ONE indivisible transition of the state: it takes no time, no clock and no cycle count as an argument and reads
none (spec/70_reset_and_hazards.md R359). -/
def step (s : State) : Host.Outcome State Fault Refusal :=
  if s.halted then .refused .alreadyHalted
  else if Config.lastFetch < s.pc.toNat then .next (s.takeFault (.pcOutOfRange s.pc))
  else
    match decode s.fetch with
    | .error _ => .next (s.takeFault (.invalidInstruction s.fetch s.pc))
    | .ok i => closeStep (exec i s)

/-- `s` with the instruction whose bits are `w` stored where STEP fetches: most significant byte at `pc` (R66, R91).
The machine fetches at `pc`, so nothing else is set. -/
def State.withFetchWord (s : State) (nbits w : Nat) : State :=
  let word : Word := BitVec.ofNat 16 (w % 2 ^ nbits)
  { s with mem := Memory.writeFrom s.mem s.pc.toNat 0 [Word.hiByte word, Word.loByte word] }

end Sys2Proof.Machine
end

