-- ==== Sys2Proof/Machine/HostOps.lean ====
section
/-! DEFINITION. The operations of the CORE's interface besides STEP (spec/00_scope.md R5): TICK, SET_KEY, RESET, LOAD and
the accessors, and the histories a host may make of them (R6). -/

namespace Sys2Proof.Machine

/-! ## The operations -/

/-- One timer's countdown: down by 1 if above 0 (R312). -/
def countDown (b : Byte) : Byte := if b.toNat > 0 then b - 1 else b

/-- TICK (R312): each timer on its own value, nothing else; halted or not (R315, D26, log 29). -/
def State.tick (s : State) : State := { s with dt := countDown s.dt, st := countDown s.st }

/-- SET_KEY (R317): an index outside 0 to 15 is refused with no effect (D27, log 30); halted or not (R315). -/
def setKey (k : Nat) (pressed : Bool) (s : State) : Host.Outcome State Fault Refusal :=
  if h : k < 16 then .next { s with key := s.key.set k pressed h } else .refused (.keyIndexOutOfContract k)

/-- RESET (R350): the state of R40, with the machine's own FONT copied to 0x000. The parameters stay, and the random
source is not rewound (D30, log 4). -/
def State.resetOp (s : State) : State :=
  { State.reset with
    mem := Memory.writeFrom [] Config.fontBase 0 s.params.font.toList
    draws := s.draws
    params := s.params }

/-- What LOAD returns (R353). -/
inductive LoadResult where
  /-- `Ok`, with the image in memory -/
  | ok (s : State)
  /-- `LoadFailed(ImageTooLarge)`: nothing was written and `halted` is not set -/
  | imageTooLarge
  deriving DecidableEq, Repr

/-- LOAD (R353, R354): at most 3584 bytes, verbatim from 0x200 on; nothing else changes, halted or not (D29, log 31). -/
def load (image : List Byte) (s : State) : LoadResult :=
  if image.length > Config.maxImage then .imageTooLarge
  else .ok { s with mem := Memory.writeFrom s.mem Config.progStart 0 image }

/-- DISPLAY accessor (R316). -/
def State.displayAccessor (s : State) : Grid := s.display

/-- DELAY accessor (R318). -/
def State.delayAccessor (s : State) : Byte := s.dt

/-- SOUND accessor (R318). -/
def State.soundAccessor (s : State) : Byte := s.st

/-! ## Histories (R5, R6) -/

/-- The operations a host invokes (R5). -/
inductive HostOp where
  /-- STEP -/
  | step
  /-- TICK -/
  | tick
  /-- SET_KEY -/
  | setKey (k : Nat) (pressed : Bool)
  /-- RESET -/
  | reset
  /-- LOAD -/
  | load (image : List Byte)
  /-- DISPLAY -/
  | display
  /-- DELAY -/
  | delay
  /-- SOUND -/
  | sound
  deriving DecidableEq, Repr

/-- What an operation returns to the host. -/
inductive Reply where
  /-- `Ok` -/
  | ok
  /-- STEP returned `Fault(kind, info)` (R11, R305) -/
  | fault (f : Fault)
  /-- the operation was refused with no effect (R307, R317) -/
  | refused (r : Refusal)
  /-- LOAD returned `LoadFailed(ImageTooLarge)` (R353) -/
  | imageTooLarge
  /-- DISPLAY returned the grid (R316) -/
  | grid (g : Grid)
  /-- DELAY or SOUND returned a timer (R318) -/
  | timer (b : Byte)
  deriving DecidableEq, Repr

/-- The reply of a STEP that left state `s`: the outcome it recorded (R35). -/
def stepReply (s : State) : Reply :=
  match s.lastOutcome with
  | some (.fault f) => .fault f
  | some .ok => .ok
  | none => .ok

/-- One operation of the host on the machine: the state after it and the reply (R5). Every operation is total, runs to
completion and is one transition; the next state depends on the operation and the state, never on elapsed time (R6, R359). -/
def invoke (op : HostOp) (s : State) : State × Reply :=
  match op with
  | .step =>
    match Sys2Proof.Machine.step s with
    | .next t => (t, stepReply t)
    | .fault f => (s, .fault f)
    | .refused r => (s, .refused r)
  | .tick => (s.tick, .ok)
  | .setKey k pressed =>
    match Sys2Proof.Machine.setKey k pressed s with
    | .next t => (t, .ok)
    | .fault f => (s, .fault f)
    | .refused r => (s, .refused r)
  | .reset => (s.resetOp, .ok)
  | .load image =>
    match Sys2Proof.Machine.load image s with
    | .ok t => (t, .ok)
    | .imageTooLarge => (s, .imageTooLarge)
  | .display => (s, .grid s.displayAccessor)
  | .delay => (s, .timer s.delayAccessor)
  | .sound => (s, .timer s.soundAccessor)

/-- The state after a finite history (R6). -/
def runOps : List HostOp → State → State
  | [], s => s
  | op :: ops, s => runOps ops (invoke op s).1

/-- The state after the first `n` operations of an infinite history (R6). -/
def stateAt (history : Nat → HostOp) (s : State) : Nat → State
  | 0 => s
  | n + 1 => (invoke (history n) (stateAt history s n)).1

/-- The states a machine with parameters `p` can be in: after construction, which resets it, and any finite history. -/
def Reachable (s : State) : Prop :=
  ∃ (start : State) (ops : List HostOp), s = runOps ops start.resetOp

end Sys2Proof.Machine
end

