-- ==== Sys2Proof/Safety.lean ====
section
/-! DEFINITION. The terms the statements use: what an instruction may write (its footprint), the invariant of the machine,
and sameness of two states up to what no instruction reads. -/

namespace Sys2Proof.Machine

/-! ## Frames -/

/-- What a transition may write, besides `pc`. The keypad, the instruction counter and the parameters are in no footprint:
no instruction writes them (spec/10_state.md R20, R33, R36; spec/00_scope.md R7). -/
structure Footprint where
  /-- general registers written -/
  regs : RegIdx → Bool := fun _ => false
  /-- memory addresses written, as Nats below 4096 -/
  bytes : Nat → Bool := fun _ => false
  /-- stack entries written -/
  stack : Fin 16 → Bool := fun _ => false
  /-- display pixels (row, column) written -/
  pixels : Nat → Nat → Bool := fun _ _ => false
  /-- `I` -/
  index : Bool := false
  /-- `SP` -/
  sp : Bool := false
  /-- `DT` -/
  dt : Bool := false
  /-- `ST` -/
  st : Bool := false
  /-- `halted` and the last outcome: a fault is taken -/
  fault : Bool := false
  /-- one random byte is drawn -/
  draw : Bool := false

/-- Everything outside the footprint is the same in both states; `pc` may differ. -/
structure Unchanged (f : Footprint) (s t : State) : Prop where
  /-- registers outside the footprint -/
  regs : ∀ x : RegIdx, f.regs x = false → t.reg x = s.reg x
  /-- every byte of memory outside the footprint -/
  bytes : ∀ a : Nat, f.bytes (Memory.wrap a) = false → t.byteAt a = s.byteAt a
  /-- stack entries outside the footprint -/
  stack : ∀ k : Fin 16, f.stack k = false → t.stack[k] = s.stack[k]
  /-- pixels outside the footprint -/
  pixels : ∀ r c : Nat, f.pixels r c = false → Grid.pixel t.display r c = Grid.pixel s.display r c
  /-- the index register -/
  index : f.index = false → t.index = s.index
  /-- the stack pointer -/
  sp : f.sp = false → t.sp = s.sp
  /-- the delay timer -/
  dt : f.dt = false → t.dt = s.dt
  /-- the sound timer -/
  st : f.st = false → t.st = s.st
  /-- halt and outcome -/
  fault : f.fault = false → t.halted = s.halted ∧ t.lastOutcome = s.lastOutcome
  /-- the random source -/
  draws : f.draw = false → t.draws = s.draws
  /-- the keypad, the instruction counter, the parameters -/
  fixed : t.key = s.key ∧ t.executed = s.executed ∧ t.params = s.params

/-- One register. -/
def onlyReg (x y : RegIdx) : Bool := y == x

/-- `Vx` and `VF`. -/
def regAndVF (x y : RegIdx) : Bool := y == x || y == regVF

/-- The addresses of `count` bytes from `I` on, by the same `State.ea` the stores use. -/
def bytesFromIndex (s : State) (count a : Nat) : Bool := (List.range count).any fun j => s.ea j == a

/-- The 8 columns and `n` rows of a sprite at column `Vx`, row `Vy`. -/
def spriteBox (s : State) (x y : RegIdx) (n r c : Nat) : Bool :=
  decide ((s.reg y).toNat ≤ r ∧ r < (s.reg y).toNat + n ∧ (s.reg x).toNat ≤ c ∧ c < (s.reg x).toNat + 8)

/-- What each instruction may write, from the tables of spec/10_state.md R20 and R23 and spec/20_memory.md R62. -/
def footprint (i : Instr) (s : State) : Footprint :=
  match i with
  | .cls => { pixels := fun _ _ => true }
  | .ret => if s.sp.val = 0 then { fault := true } else { sp := true }
  | .sys _ => { }
  | .jp _ => { }
  | .call _ => if s.sp.val = 16 then { fault := true } else { sp := true, stack := fun k => k.val == s.sp.val }
  | .seImm _ _ => { }
  | .sneImm _ _ => { }
  | .seReg _ _ => { }
  | .ldImm x _ => { regs := onlyReg x }
  | .addImm x _ => { regs := onlyReg x }
  | .ldReg x _ => { regs := onlyReg x }
  | .orReg x _ => { regs := onlyReg x }
  | .andReg x _ => { regs := onlyReg x }
  | .xorReg x _ => { regs := onlyReg x }
  | .addReg x _ => { regs := regAndVF x }
  | .subReg x _ => { regs := regAndVF x }
  | .shr x _ => { regs := regAndVF x }
  | .subn x _ => { regs := regAndVF x }
  | .shl x _ => { regs := regAndVF x }
  | .sneReg _ _ => { }
  | .ldI _ => { index := true }
  | .jpV0 _ => { }
  | .rnd x _ => { regs := onlyReg x, draw := true }
  | .drw x y n => { regs := onlyReg regVF, pixels := spriteBox s x y n.val }
  | .skp _ => { }
  | .sknp _ => { }
  | .ldVxDT x => { regs := onlyReg x }
  | .ldVxK x => if s.lowestKey.isSome then { regs := onlyReg x } else { }
  | .ldDTVx _ => { dt := true }
  | .ldSTVx _ => { st := true }
  | .addI _ => { index := true }
  | .ldF _ => { index := true }
  | .ldB _ => { bytes := bytesFromIndex s 3 }
  | .store x => { bytes := bytesFromIndex s (x.val + 1) }
  | .load x => { regs := fun y => decide (y.val ≤ x.val) }

/-- `pc` moved on by 2 (R99), modulo 65536 since `pc` is 16 bits wide (R26, log 33). -/
abbrev Advanced (s t : State) : Prop := t.pc.toNat = (s.pc.toNat + 2) % 65536

/-- `pc` moved on by 4 if `c` holds and by 2 if not (R99), modulo 65536 since `pc` is 16 bits wide (R26, log 33). -/
abbrev Skipped (c : Prop) [Decidable c] (s t : State) : Prop :=
  t.pc.toNat = (s.pc.toNat + (if c then 4 else 2)) % 65536

/-- A flag-producing instruction wrote `value` to `Vx` and `flag` (0 or 1) to `VF`; with `x = 15` the later write of the
machine's order is the one that remains (spec/30_encoding.md R103). -/
def WroteFlagged (x : RegIdx) (value flag : Nat) (s t : State) : Prop :=
  (x ≠ 15 → (t.reg x).toNat = value ∧ (t.reg 15).toNat = flag) ∧
  (x = 15 → s.params.flagLast = false → (t.reg 15).toNat = value) ∧
  (x = 15 → s.params.flagLast = true → (t.reg 15).toNat = flag)

/-! ## Reads -/

/-- The general registers each instruction reads, the middle column of spec/10_state.md R23. -/
def readRegs (i : Instr) (r : RegIdx) : Bool :=
  match i with
  | .cls => false
  | .ret => false
  | .sys _ => false
  | .jp _ => false
  | .call _ => false
  | .seImm x _ => r == x
  | .sneImm x _ => r == x
  | .seReg x y => r == x || r == y
  | .ldImm _ _ => false
  | .addImm x _ => r == x
  | .ldReg _ y => r == y
  | .orReg x y => r == x || r == y
  | .andReg x y => r == x || r == y
  | .xorReg x y => r == x || r == y
  | .addReg x y => r == x || r == y
  | .subReg x y => r == x || r == y
  | .shr x _ => r == x
  | .subn x y => r == x || r == y
  | .shl x _ => r == x
  | .sneReg x y => r == x || r == y
  | .ldI _ => false
  | .jpV0 _ => r == 0
  | .rnd _ _ => false
  | .drw x y _ => r == x || r == y
  | .skp x => r == x
  | .sknp x => r == x
  | .ldVxDT _ => false
  | .ldVxK _ => false
  | .ldDTVx x => r == x
  | .ldSTVx x => r == x
  | .addI x => r == x
  | .ldF x => r == x
  | .ldB x => r == x
  | .store x => decide (r.val ≤ x.val)
  | .load _ => false

/-- The state with another register file. -/
def State.withRegs (s : State) (v : Vector Byte 16) : State := { s with v := v }

/-- Two states that differ at most in general registers, and at most in those outside `f`'s footprint. -/
structure SameButRegs (f : Footprint) (s t : State) : Prop where
  /-- the registers in the footprint agree -/
  regs : ∀ r : RegIdx, f.regs r = true → t.reg r = s.reg r
  /-- everything else agrees -/
  rest : t.withRegs s.v = s

/-! ## Fault causes -/

/-- The cause of each fault, in the priority of spec/60_exceptions.md R309, for a machine that is running. -/
def FaultCause (s : State) : Fault → Prop
  | .pcOutOfRange p => 4094 < s.pc.toNat ∧ p = s.pc
  | .invalidInstruction w p => s.pc.toNat ≤ 4094 ∧ w = s.fetch ∧ p = s.pc ∧ ∀ i, decode w ≠ .ok i
  | .stackOverflow p w => s.pc.toNat ≤ 4094 ∧ w = s.fetch ∧ p = s.pc ∧ (∃ nnn, decode w = .ok (.call nnn)) ∧ s.sp.val = 16
  | .stackUnderflow p w => s.pc.toNat ≤ 4094 ∧ w = s.fetch ∧ p = s.pc ∧ decode w = .ok .ret ∧ s.sp.val = 0

/-- A STEP of `s` runs the handler of `i`: the machine is running, `pc` is in range and the fetched word decodes to `i`
(spec/30_encoding.md R102). -/
def Runs (s : State) (i : Instr) : Prop :=
  s.halted = false ∧ s.pc.toNat ≤ Config.lastFetch ∧ decode s.fetch = .ok i

/-! ## The invariant -/

/-- What every operation of the host keeps: memory is canonical, `pc` and the return addresses stay in the range that the
instructions can write (spec/30_encoding.md R101, spec/41_control.md R133), and the machine is halted exactly when its last
outcome is a fault (spec/60_exceptions.md R305, R308). -/
structure Inv (s : State) : Prop where
  /-- canonical memory -/
  mem : Memory.wf s.mem
  /-- the largest value written to `pc` is 0x10FE -/
  pc : s.pc.toNat ≤ 0x10FE
  /-- the largest return address is 4096 -/
  stack : ∀ k : Fin 16, s.stack[k].toNat ≤ 4096
  /-- halted if and only if the last STEP faulted -/
  outcome : s.halted = true ↔ ∃ f, s.lastOutcome = some (.fault f)

/-! ## Sameness up to what no instruction reads -/

/-- The same state but for stack entries at `SP` and above, which are stale (R29). -/
structure SameUpToStale (s t : State) : Prop where
  /-- the live entries agree -/
  live : ∀ k : Fin 16, k.val < s.sp.val → t.stack[k] = s.stack[k]
  /-- everything else agrees -/
  rest : { t with stack := s.stack } = s

/-- Two outcomes related by a relation on states: both next states related, or the same fault, or the same refusal. -/
def OutcomesRelated (R : State → State → Prop) :
    Host.Outcome State Fault Refusal → Host.Outcome State Fault Refusal → Prop
  | .next s, .next t => R s t
  | .fault f, .fault g => f = g
  | .refused q, .refused r => q = r
  | _, _ => False

/-- The outcome with a function applied to the next state. -/
def mapNext (g : State → State) : Host.Outcome State Fault Refusal → Host.Outcome State Fault Refusal
  | .next s => .next (g s)
  | .fault f => .fault f
  | .refused r => .refused r

/-- The state with its two observations replaced: the last outcome and the instruction counter (R35, R36). -/
def State.withDiagnostics (s : State) (o : Option StepOutcome) (k : Nat) : State :=
  { s with lastOutcome := o, executed := k }

/-! ## The sprite, pixel by pixel -/

/-- Whether the sprite of `n` rows at `I`, placed at column `Vx` and row `Vy`, has a 1 bit on pixel (r, c): the pixel is
on the grid, in the sprite's box, and its bit of the sprite byte is 1, most significant bit leftmost (R241 to R243). -/
def spriteCovers (s : State) (x y : RegIdx) (n r c : Nat) : Bool :=
  decide (r < 32 ∧ c < 64) && spriteBox s x y n r c &&
    (s.byteAt (s.index.toNat + (r - (s.reg y).toNat))).getLsbD (7 - (c - (s.reg x).toNat))

end Sys2Proof.Machine
end

