-- ==== Sys2Proof/Certificates/Slice0/Obligations.lean ====
section
/-! DEFINITION. The statements for the provers. Each is taken from the numbered rules of spec/; a clause that rests on a
decision of the spec (92_eei_decisions.md) or on a choice of the model says so. A per-instruction statement gives the
instruction's encoding, that `exec` answers a next state, the values written, `pc`, and by `Unchanged` its whole frame. -/

open Sys2Proof Sys2Proof.Machine

/-! ## Encoding -/

/-- Words of the spec's examples and tables (95_test_vectors.md L1, L2), decoded; tier 1, a sanity statement. That 0x01E0
is `0NNN` and not `00E0` is the whole-word match of group 0, decision D8 of the spec (log 14). -/
def Obligations.SpecWordsDecodeAsWritten : Prop :=
  decode 0x00E0 = .ok .cls ∧ decode 0x00EE = .ok .ret ∧ decode 0x01E0 = .ok (.sys 0x1E0) ∧
  decode 0x1234 = .ok (.jp 0x234) ∧ decode 0x3A12 = .ok (.seImm 0xA 0x12) ∧ decode 0x8124 = .ok (.addReg 1 2) ∧
  decode 0x81FE = .ok (.shl 1 15) ∧ decode 0xC30F = .ok (.rnd 3 0x0F) ∧ decode 0xA300 = .ok (.ldI 0x300) ∧
  decode 0xF155 = .ok (.store 1) ∧ decode 0xD125 = .ok (.drw 1 2 5) ∧ decode 0xE49E = .ok (.skp 4) ∧
  decode 0xF50A = .ok (.ldVxK 5) ∧ decode 0x5001 = .error .invalidGroup5 ∧ decode 0x8128 = .error .invalidGroup8 ∧
  decode 0x9001 = .error .invalidGroup9 ∧ decode 0xE0A2 = .error .invalidGroupE ∧ decode 0xFFFF = .error .invalidGroupF

/-- Decode and encode agree: every well-formed instruction, at every value of every operand, is read back from its word
(R94, R95), and from its two bytes in memory order with the rest of the bytes left (R66, R90). -/
def Obligations.DecodeOfEncodeIsTheInstruction : Prop :=
  ∀ i : Instr, i.wellFormed = true →
    decode (encode i) = .ok i ∧ ∀ rest : List Byte, decodeBytes (encodeBytes i ++ rest) = .ok (i, rest)

/-- The other direction: a word that decodes is the word of the well-formed instruction it decodes to. -/
def Obligations.DecodedWordsEncodeBack : Prop :=
  ∀ (w : Word) (i : Instr), decode w = .ok i → i.wellFormed = true ∧ encode i = w

/-- The decoder of R94 is the opcode map of R95: a word decodes to an instruction of a row exactly when
`word AND mask = match` and the word is not excluded from the row. -/
def Obligations.DecoderIsTheOpcodeMap : Prop :=
  ∀ (w : Word) (r : OpcodeRow), r ∈ opcodeTable →
    (r.covers w = true ↔ ∃ i, decode w = .ok i ∧ i.rowNumber = r.number)

/-- The invalid words are exactly those of the table of R96, an inference the spec marks as derived from R94. -/
def Obligations.InvalidWordsAreExactlyTheTable : Prop :=
  ∀ w : Word,
    let g := w.toNat / 0x1000
    let n := w.toNat % 0x10
    let nn := w.toNat % 0x100
    ((∀ i, decode w ≠ .ok i) ↔
      (g = 0x5 ∧ n ≠ 0) ∨ (g = 0x8 ∧ n ∈ [0x8, 0x9, 0xA, 0xB, 0xC, 0xD, 0xF]) ∨ (g = 0x9 ∧ n ≠ 0) ∨
      (g = 0xE ∧ nn ∉ [0x9E, 0xA1]) ∨ (g = 0xF ∧ nn ∉ [0x07, 0x0A, 0x15, 0x18, 0x1E, 0x29, 0x33, 0x55, 0x65]))

/-! ## The step -/

/-- STEP (R102): refused when halted, PcOutOfRange before a fetch above 4094, InvalidInstruction for a word that does not
decode, else the handler of the decoded instruction. Around the handler the step records the outcome `Ok` and counts the
instruction, unless the handler took a fault. The refusal is the spec's decision D22 (log 27), the order D23 (log 28), the
fault for `pc` out of range D20 (log 25), and that a fault changes nothing but `halted` D21 (log 26). The recorded outcome
and the counter are those D3 and D4 allow (log 2, log 3), and the fault is answered as a next state (log 1). -/
def Obligations.StepRunsTheDecodedInstruction : Prop :=
  ∀ s : State,
    (s.halted = true → step s = .refused .alreadyHalted) ∧
    (s.halted = false → 4094 < s.pc.toNat →
      step s = .next { s with halted := true, lastOutcome := some (.fault (.pcOutOfRange s.pc)) }) ∧
    (s.halted = false → s.pc.toNat ≤ 4094 → ∀ w : Word,
      w.toNat = (s.byteAt s.pc.toNat).toNat * 256 + (s.byteAt (s.pc.toNat + 1)).toNat →
      ((∀ i, decode w ≠ .ok i) →
        step s = .next { s with halted := true, lastOutcome := some (.fault (.invalidInstruction w s.pc)) }) ∧
      (∀ i t, decode w = .ok i → exec i s = .next t → t.halted = false →
        step s = .next { t with lastOutcome := some .ok, executed := t.executed + 1 }) ∧
      (∀ i t, decode w = .ok i → exec i s = .next t → t.halted = true → step s = .next t))

/-- STEP has exactly one outcome (R11): Refused on a halted machine, else `Ok` and running, or a fault and halted. In the
model the last two are next states that record the outcome (log 1). -/
def Obligations.EveryStepHasOneOutcome : Prop :=
  ∀ s : State,
    (s.halted = true → step s = .refused .alreadyHalted) ∧
    (s.halted = false → ∃ t, step s = .next t ∧
      ((t.halted = false ∧ t.lastOutcome = some .ok) ∨ (t.halted = true ∧ ∃ f, t.lastOutcome = some (.fault f))))

/-- A running machine faults exactly for the four causes of R300, in the priority of R309, and the fault changes nothing
but `halted` and the recorded outcome (R305): decisions D19, D20, D21, D23 of the spec. -/
def Obligations.StepFaultsExactlyForTheFourCauses : Prop :=
  ∀ s : State, s.halted = false →
    (∀ f, FaultCause s f → step s = .next { s with halted := true, lastOutcome := some (.fault f) }) ∧
    (∀ t, step s = .next t → t.halted = true →
      ∃ f, FaultCause s f ∧ t = { s with halted := true, lastOutcome := some (.fault f) })

/-- The instruction counter counts the STEPs that return `Ok`, no other (R36): decision D4 of the spec, log 3. -/
def Obligations.CounterCountsOkSteps : Prop :=
  ∀ s t : State, step s = .next t → t.executed = s.executed + (if t.halted then 0 else 1)

/-- Whatever the history, a machine that has halted stays halted with its registers, `I`, `pc`, `SP`, stack and display as
they are until a RESET (R34, R308). -/
def Obligations.HaltedMachineWaitsForReset : Prop :=
  ∀ (history : Nat → HostOp) (s : State) (n : Nat), s.halted = true → (∀ k < n, history k ≠ .reset) →
    (stateAt history s n).halted = true ∧ (stateAt history s n).v = s.v ∧ (stateAt history s n).index = s.index ∧
    (stateAt history s n).pc = s.pc ∧ (stateAt history s n).sp = s.sp ∧ (stateAt history s n).stack = s.stack ∧
    (stateAt history s n).display = s.display

/-- From any running state whose memory is zero from `pc` to its end, an even distance `2 n` away, `n` STEPs bring `pc` to
0x1000, each counted as `Ok`, and the next takes PcOutOfRange(0x1000); from reset, `n` is 1792 (R351, which the spec marks as
derived). It says where `pc`, `halted` and the count stand; what a no-op leaves unchanged is SysIsANoOp. The count is
decision D4 of the spec (log 3), the fault and its precise state D20 and D21 (log 25, log 26), recorded in a next state
(log 1, log 2). -/
def Obligations.ZeroMemoryRunsOffTheEnd : Prop :=
  (∀ (n : Nat) (s : State), s.halted = false → s.pc.toNat + 2 * n = 4096 →
    (∀ a, s.pc.toNat ≤ a → a < 4096 → s.byteAt a = 0) →
    ∃ t, t = stateAt (fun _ => .step) s n ∧ t.pc = 0x1000 ∧ t.halted = false ∧ t.executed = s.executed + n ∧
      step t = .next { t with halted := true, lastOutcome := some (.fault (.pcOutOfRange 0x1000)) }) ∧
  ∃ t, t = stateAt (fun _ => .step) State.reset 1792 ∧ t.pc = 0x1000 ∧ t.halted = false ∧ t.executed = 1792 ∧
    step t = .next { t with halted := true, lastOutcome := some (.fault (.pcOutOfRange 0x1000)) }

/-! ## Reset and the invariant -/

/-- RESET in any state (R350, R40): every field zeroed, FONT copied to 0x000, `pc` at 0x200, `halted` cleared, the
parameters kept; and RESET is the only operation that takes a halted machine out of `halted`. The recorded outcome and the
instruction counter are cleared as decisions D3 and D4 of the spec say (log 2, log 3). -/
def Obligations.ResetGivesTheStatedState : Prop :=
  (∀ s : State, ∃ t, invoke .reset s = (t, .ok) ∧
    (∀ x : RegIdx, t.reg x = 0) ∧ t.index = 0 ∧ t.sp = 0 ∧ (∀ k : Fin 16, t.stack[k] = 0) ∧
    (∀ k : Fin 80, t.byteAt k.val = s.params.font[k]) ∧ (∀ a, 80 ≤ a → a < 4096 → t.byteAt a = 0) ∧
    (∀ r c, Grid.pixel t.display r c = false) ∧ t.dt = 0 ∧ t.st = 0 ∧ (∀ k : Fin 16, t.key[k] = false) ∧
    t.pc = 0x200 ∧ t.halted = false ∧ t.lastOutcome = none ∧ t.executed = 0 ∧ t.params = s.params) ∧
  (∀ (op : HostOp) (s : State), op ≠ .reset → s.halted = true → (invoke op s).1.halted = true)

/-- RESET with the default parameters gives the state after reset of the model up to `draws`, which RESET keeps: the random
source is not rewound, the model's choice (log 4). Writing the default FONT over zeroed memory lists no cell, since an
unlisted address reads as its reset content (log 8; the default FONT is log 5). -/
def Obligations.ResetStateIsWhatResetGives : Prop :=
  ∀ s : State, s.params = Config.defaultParams → s.resetOp = { State.reset with draws := s.draws }

/-- The invariant holds at reset. -/
def Obligations.ResetStateMeetsTheInvariant : Prop := Inv State.reset

/-- From every state that meets the invariant, reachable or not, a STEP gives a state that meets it. -/
def Obligations.EveryStepKeepsTheInvariant : Prop := ∀ s t : State, Inv s → step s = .next t → Inv t

/-- Every state a host can bring the machine to, by any history from construction on and for any parameters, meets the
invariant (R6, R21, R101). -/
def Obligations.ReachableStatesMeetTheInvariant : Prop := ∀ s : State, Reachable s → Inv s

/-! ## What an instruction may write and read -/

/-- No instruction writes anything outside its footprint: the write columns of R20, R23 and R62. -/
def Obligations.InstructionsWriteOnlyTheirFootprint : Prop :=
  ∀ (i : Instr) (s t : State), Memory.wf s.mem → exec i s = .next t → Unchanged (footprint i s) s t

/-- No instruction reads a general register but those of R23: two states that agree on the registers it reads, and on
everything that is no register, give next states that agree on everything but registers it does not write, which keep their
values in each. -/
def Obligations.InstructionsReadOnlyTheirOperands : Prop :=
  ∀ (i : Instr) (s : State) (v : Vector Byte 16), (∀ r : RegIdx, readRegs i r = true → v[r] = s.reg r) →
    ∃ t u, exec i s = .next t ∧ exec i (s.withRegs v) = .next u ∧ SameButRegs (footprint i s) t u ∧
      (∀ r : RegIdx, (footprint i s).regs r = false → t.reg r = s.reg r ∧ u.reg r = v[r])

/-- The sound timer affects no instruction and no other state (R31): with another value in it a STEP does the same and
leaves that value, unless it runs `FX18`, which replaces it; and every other operation of the host leaves all other state
as it would have. -/
def Obligations.SoundTimerAffectsNothing : Prop :=
  (∀ (s : State) (b : Byte), step (s.setST b) = mapNext (fun t => t.setST b) (step s) ∨
    ∃ x, decode s.fetch = .ok (.ldSTVx x) ∧ step (s.setST b) = step s) ∧
  ∀ (op : HostOp) (s : State) (b : Byte), op ≠ .step →
    (invoke op (s.setST b)).1.setST 0 = (invoke op s).1.setST 0

/-- The recorded outcome and the instruction counter influence nothing: STEPs from states that differ in them give the same
outcome and next states that differ at most in them (R35, R36; decisions D3 and D4, log 2 and 3). -/
def Obligations.DiagnosticsAffectNothing : Prop :=
  ∀ (s : State) (o : Option StepOutcome) (k : Nat),
    mapNext (fun t => t.withDiagnostics none 0) (step (s.withDiagnostics o k)) =
      mapNext (fun t => t.withDiagnostics none 0) (step s)

/-- No instruction reads a stale stack entry (R29): STEPs from states that differ only in entries at `SP` and above have
the same outcome and next states that differ only so. -/
def Obligations.StaleStackEntriesAreNeverRead : Prop :=
  ∀ s t : State, SameUpToStale s t → OutcomesRelated SameUpToStale (step s) (step t)

/-! ## Control transfer -/

/-- `0NNN` (R130): a no-op for every word of group 0 but 0x00E0 and 0x00EE (the whole-word match is decision D8). -/
def Obligations.SysIsANoOp : Prop :=
  ∀ nnn : Addr,
    (nnn ≠ 0x0E0 → nnn ≠ 0x0EE → decode (BitVec.ofNat 16 nnn.toNat) = .ok (.sys nnn)) ∧
    ∀ s, ∃ t, exec (.sys nnn) s = .next t ∧ Advanced s t ∧ Unchanged { } s t

/-- `1NNN` (R132) and `BNNN` (R138): `pc` becomes `nnn`, or `nnn + V0` unreduced. -/
def Obligations.JumpsSetPc : Prop :=
  ∀ nnn : Addr,
    decode (BitVec.ofNat 16 (0x1000 + nnn.toNat)) = .ok (.jp nnn) ∧
    decode (BitVec.ofNat 16 (0xB000 + nnn.toNat)) = .ok (.jpV0 nnn) ∧
    ∀ s,
      (∃ t, exec (.jp nnn) s = .next t ∧ t.pc.toNat = nnn.toNat ∧ Unchanged { } s t) ∧
      (∃ t, exec (.jpV0 nnn) s = .next t ∧ t.pc.toNat = nnn.toNat + (s.reg 0).toNat ∧ Unchanged { } s t)

/-- `2NNN` (R133, R302): below 16 entries, `pc + 2` is pushed and `pc` becomes `nnn`; with 16 the fault StackOverflow of the
operation call is taken, nothing is pushed and `pc` stays. -/
def Obligations.CallPushesOrOverflows : Prop :=
  ∀ nnn : Addr,
    decode (BitVec.ofNat 16 (0x2000 + nnn.toNat)) = .ok (.call nnn) ∧
    ∀ s,
      (s.sp.val < 16 → ∃ t, exec (.call nnn) s = .next t ∧
        (∀ k : Fin 16, k.val = s.sp.val → t.stack[k].toNat = (s.pc.toNat + 2) % 65536) ∧
        t.sp.val = s.sp.val + 1 ∧ t.pc.toNat = nnn.toNat ∧
        Unchanged { sp := true, stack := fun k => k.val == s.sp.val } s t) ∧
      (s.sp.val = 16 → ∃ f, f = Fault.stackOverflow s.pc (BitVec.ofNat 16 (0x2000 + nnn.toNat)) ∧
        f.operation = some .call ∧
        exec (.call nnn) s = .next { s with halted := true, lastOutcome := some (.fault f) })

/-- `00EE` (R131): `pc` becomes the popped entry, not advanced further (90_conflicts.md C6), and the entry is not cleared;
with an empty stack the fault StackUnderflow of the operation return is taken (decision D11 of the spec, log 17), and
nothing changes but `halted` (D21, log 26) and the recorded outcome (D3, log 2; answered as a next state, log 1). -/
def Obligations.ReturnPopsOrUnderflows : Prop :=
  decode 0x00EE = .ok .ret ∧
  ∀ s : State,
    (0 < s.sp.val → ∃ t, exec .ret s = .next t ∧ t.sp.val + 1 = s.sp.val ∧
      (∀ k : Fin 16, k.val + 1 = s.sp.val → t.pc = s.stack[k]) ∧ Unchanged { sp := true } s t) ∧
    (s.sp.val = 0 → ∃ f, f = Fault.stackUnderflow s.pc 0x00EE ∧ f.operation = some .ret ∧
      exec .ret s = .next { s with halted := true, lastOutcome := some (.fault f) })

/-- A call followed by a return comes back to the instruction after the call with `SP` as it was (95_test_vectors.md
L1-8), the callee having changed anything but the stack and `SP` in between. -/
def Obligations.ReturnComesBackAfterCall : Prop :=
  ∀ (nnn : Addr) (s t u : State), s.sp.val < 16 → exec (.call nnn) s = .next t → u.stack = t.stack → u.sp = t.sp →
    ∃ w, exec .ret u = .next w ∧ w.pc = s.pc + 2 ∧ w.sp = s.sp

/-- `3XNN` (R134) and `4XNN` (R135): skip if `Vx` is, or is not, `nn`. -/
def Obligations.ImmediateSkips : Prop :=
  ∀ (x : RegIdx) (nn : Byte),
    decode (BitVec.ofNat 16 (0x3000 + x.val * 0x100 + nn.toNat)) = .ok (.seImm x nn) ∧
    decode (BitVec.ofNat 16 (0x4000 + x.val * 0x100 + nn.toNat)) = .ok (.sneImm x nn) ∧
    ∀ s,
      (∃ t, exec (.seImm x nn) s = .next t ∧ Skipped ((s.reg x).toNat = nn.toNat) s t ∧ Unchanged { } s t) ∧
      (∃ t, exec (.sneImm x nn) s = .next t ∧ Skipped ((s.reg x).toNat ≠ nn.toNat) s t ∧ Unchanged { } s t)

/-- `5XY0` (R136) and `9XY0` (R137): skip if `Vx` is, or is not, `Vy`; with another low nibble the word is invalid. -/
def Obligations.RegisterSkips : Prop :=
  ∀ x y : RegIdx,
    decode (BitVec.ofNat 16 (0x5000 + x.val * 0x100 + y.val * 0x10)) = .ok (.seReg x y) ∧
    decode (BitVec.ofNat 16 (0x9000 + x.val * 0x100 + y.val * 0x10)) = .ok (.sneReg x y) ∧
    (∀ n : Fin 16, n.val ≠ 0 →
      decode (BitVec.ofNat 16 (0x5000 + x.val * 0x100 + y.val * 0x10 + n.val)) = .error .invalidGroup5 ∧
      decode (BitVec.ofNat 16 (0x9000 + x.val * 0x100 + y.val * 0x10 + n.val)) = .error .invalidGroup9) ∧
    ∀ s,
      (∃ t, exec (.seReg x y) s = .next t ∧ Skipped ((s.reg x).toNat = (s.reg y).toNat) s t ∧ Unchanged { } s t) ∧
      (∃ t, exec (.sneReg x y) s = .next t ∧ Skipped ((s.reg x).toNat ≠ (s.reg y).toNat) s t ∧ Unchanged { } s t)

/-! ## ALU -/

/-- `6XNN` (R170) and `8XY0` (R172): `Vx` becomes `nn`, or `Vy`; no flag is written. -/
def Obligations.RegisterLoads : Prop :=
  ∀ (x y : RegIdx) (nn : Byte),
    decode (BitVec.ofNat 16 (0x6000 + x.val * 0x100 + nn.toNat)) = .ok (.ldImm x nn) ∧
    decode (BitVec.ofNat 16 (0x8000 + x.val * 0x100 + y.val * 0x10)) = .ok (.ldReg x y) ∧
    ∀ s,
      (∃ t, exec (.ldImm x nn) s = .next t ∧ t.reg x = nn ∧ Advanced s t ∧ Unchanged { regs := onlyReg x } s t) ∧
      (∃ t, exec (.ldReg x y) s = .next t ∧ t.reg x = s.reg y ∧ Advanced s t ∧ Unchanged { regs := onlyReg x } s t)

/-- `7XNN` (R171): the sum modulo 256; `VF` is not written unless it is `Vx`. -/
def Obligations.AddImmediateWrapsWithoutFlag : Prop :=
  ∀ (x : RegIdx) (nn : Byte),
    decode (BitVec.ofNat 16 (0x7000 + x.val * 0x100 + nn.toNat)) = .ok (.addImm x nn) ∧
    ∀ s, ∃ t, exec (.addImm x nn) s = .next t ∧ (t.reg x).toNat = ((s.reg x).toNat + nn.toNat) % 256 ∧
      Advanced s t ∧ Unchanged { regs := onlyReg x } s t

/-- `8XY1`, `8XY2`, `8XY3` (R173 to R175), bit by bit; `VF` is not written unless it is `Vx`. -/
def Obligations.LogicBitByBit : Prop :=
  ∀ x y : RegIdx,
    decode (BitVec.ofNat 16 (0x8001 + x.val * 0x100 + y.val * 0x10)) = .ok (.orReg x y) ∧
    decode (BitVec.ofNat 16 (0x8002 + x.val * 0x100 + y.val * 0x10)) = .ok (.andReg x y) ∧
    decode (BitVec.ofNat 16 (0x8003 + x.val * 0x100 + y.val * 0x10)) = .ok (.xorReg x y) ∧
    ∀ s,
      (∃ t, exec (.orReg x y) s = .next t ∧
        (∀ k < 8, (t.reg x).getLsbD k = ((s.reg x).getLsbD k || (s.reg y).getLsbD k)) ∧
        Advanced s t ∧ Unchanged { regs := onlyReg x } s t) ∧
      (∃ t, exec (.andReg x y) s = .next t ∧
        (∀ k < 8, (t.reg x).getLsbD k = ((s.reg x).getLsbD k && (s.reg y).getLsbD k)) ∧
        Advanced s t ∧ Unchanged { regs := onlyReg x } s t) ∧
      (∃ t, exec (.xorReg x y) s = .next t ∧
        (∀ k < 8, (t.reg x).getLsbD k = ((s.reg x).getLsbD k ^^ (s.reg y).getLsbD k)) ∧
        Advanced s t ∧ Unchanged { regs := onlyReg x } s t)

/-- `8XY4` (R176): the exact sum modulo 256 and its carry out of bit 7. Operands are read before any write; which write
remains when `x = 15` is decision D9 of the spec (log 6), stated for both values of FLAG_LAST. -/
def Obligations.AddWithCarryOut : Prop :=
  ∀ x y : RegIdx,
    decode (BitVec.ofNat 16 (0x8004 + x.val * 0x100 + y.val * 0x10)) = .ok (.addReg x y) ∧
    ∀ s, ∃ t, exec (.addReg x y) s = .next t ∧
      WroteFlagged x (((s.reg x).toNat + (s.reg y).toNat) % 256)
        (if (s.reg x).toNat + (s.reg y).toNat > 255 then 1 else 0) s t ∧
      Advanced s t ∧ Unchanged { regs := regAndVF x } s t

/-- `8XY5` (R177) and `8XY7` (R179): the difference, plus 256 when it borrows, and 1 in the flag when it does not. The case
`x = 15` is decision D9 of the spec (log 6), stated for both values of FLAG_LAST. -/
def Obligations.SubtractWithoutBorrowFlag : Prop :=
  ∀ x y : RegIdx,
    decode (BitVec.ofNat 16 (0x8005 + x.val * 0x100 + y.val * 0x10)) = .ok (.subReg x y) ∧
    decode (BitVec.ofNat 16 (0x8007 + x.val * 0x100 + y.val * 0x10)) = .ok (.subn x y) ∧
    ∀ s : State, ∀ a b : Nat, a = (s.reg x).toNat → b = (s.reg y).toNat →
      (∃ t, exec (.subReg x y) s = .next t ∧
        WroteFlagged x (if a < b then a + 256 - b else a - b) (if a ≥ b then 1 else 0) s t ∧
        Advanced s t ∧ Unchanged { regs := regAndVF x } s t) ∧
      (∃ t, exec (.subn x y) s = .next t ∧
        WroteFlagged x (if b < a then b + 256 - a else b - a) (if b ≥ a then 1 else 0) s t ∧
        Advanced s t ∧ Unchanged { regs := regAndVF x } s t)

/-- `8XY6` (R178) and `8XYE` (R180): `Vx` shifted by one, `Vy` ignored, and the bit shifted out in the flag. The case
`x = 15` is decision D9 of the spec (log 6), stated for both values of FLAG_LAST. -/
def Obligations.ShiftsByOne : Prop :=
  ∀ x y : RegIdx,
    decode (BitVec.ofNat 16 (0x8006 + x.val * 0x100 + y.val * 0x10)) = .ok (.shr x y) ∧
    decode (BitVec.ofNat 16 (0x800E + x.val * 0x100 + y.val * 0x10)) = .ok (.shl x y) ∧
    ∀ s : State, ∀ a : Nat, a = (s.reg x).toNat →
      (∃ t, exec (.shr x y) s = .next t ∧ WroteFlagged x (a / 2) (a % 2) s t ∧
        Advanced s t ∧ Unchanged { regs := regAndVF x } s t) ∧
      (∃ t, exec (.shl x y) s = .next t ∧ WroteFlagged x (a * 2 % 256) (a / 128) s t ∧
        Advanced s t ∧ Unchanged { regs := regAndVF x } s t)

/-- `CXNN` (R181): `Vx` is the free byte of this draw AND `nn`; so every bit outside `nn` is 0 whatever the byte, and with
`nn = 0` the result is 0. The free byte is decision D18 of the spec (log 4); nothing here rests on its value. -/
def Obligations.RandomByteIsMasked : Prop :=
  ∀ (x : RegIdx) (nn : Byte),
    decode (BitVec.ofNat 16 (0xC000 + x.val * 0x100 + nn.toNat)) = .ok (.rnd x nn) ∧
    ∀ s, ∃ t, exec (.rnd x nn) s = .next t ∧
      (∀ k < 8, (t.reg x).getLsbD k = ((Config.randomByte s.draws).getLsbD k && nn.getLsbD k)) ∧
      t.draws = s.draws + 1 ∧ Advanced s t ∧ Unchanged { regs := onlyReg x, draw := true } s t

/-! ## Index register and memory -/

/-- `ANNN` (R210): `I` becomes `nnn`, zero-extended. -/
def Obligations.SetIndex : Prop :=
  ∀ nnn : Addr,
    decode (BitVec.ofNat 16 (0xA000 + nnn.toNat)) = .ok (.ldI nnn) ∧
    ∀ s, ∃ t, exec (.ldI nnn) s = .next t ∧ t.index.toNat = nnn.toNat ∧ Advanced s t ∧ Unchanged { index := true } s t

/-- `FX1E` (R211) and `FX29` (R212): `I + Vx` modulo 65536 with `VF` untouched, and `Vx × 5` without a mask: decisions D12
and D13 of the spec (log 18, log 19). -/
def Obligations.IndexArithmetic : Prop :=
  ∀ x : RegIdx,
    decode (BitVec.ofNat 16 (0xF01E + x.val * 0x100)) = .ok (.addI x) ∧
    decode (BitVec.ofNat 16 (0xF029 + x.val * 0x100)) = .ok (.ldF x) ∧
    ∀ s,
      (∃ t, exec (.addI x) s = .next t ∧ t.index.toNat = (s.index.toNat + (s.reg x).toNat) % 65536 ∧
        Advanced s t ∧ Unchanged { index := true } s t) ∧
      (∃ t, exec (.ldF x) s = .next t ∧ t.index.toNat = (s.reg x).toNat * 5 ∧
        Advanced s t ∧ Unchanged { index := true } s t)

/-- `FX33` (R213): hundreds, tens and units of `Vx` at `I`, `I + 1`, `I + 2`, each address modulo 4096; every other byte of
memory, and all else, as before. Memory is taken canonical, an invariant of the machine (ReachableStatesMeetTheInvariant). -/
def Obligations.DecimalDigitsAreStored : Prop :=
  ∀ x : RegIdx,
    decode (BitVec.ofNat 16 (0xF033 + x.val * 0x100)) = .ok (.ldB x) ∧
    ∀ s, Memory.wf s.mem → ∃ t, exec (.ldB x) s = .next t ∧
      (t.byteAt (s.ea 0)).toNat = (s.reg x).toNat / 100 ∧ (t.byteAt (s.ea 1)).toNat = (s.reg x).toNat / 10 % 10 ∧
      (t.byteAt (s.ea 2)).toNat = (s.reg x).toNat % 10 ∧ (∀ j, s.ea j = (s.index.toNat + j) % 4096) ∧
      Advanced s t ∧ Unchanged { bytes := bytesFromIndex s 3 } s t

/-- `FX55` (R214): `V0` to `Vx` at `(I + j) mod 4096`; `I`, the registers and every other byte of memory as before. Memory
is taken canonical, an invariant of the machine. -/
def Obligations.RegistersAreStored : Prop :=
  ∀ x : RegIdx,
    decode (BitVec.ofNat 16 (0xF055 + x.val * 0x100)) = .ok (.store x) ∧
    ∀ s, Memory.wf s.mem → ∃ t, exec (.store x) s = .next t ∧
      (∀ j : Fin 16, j.val ≤ x.val → t.byteAt (s.ea j.val) = s.reg j) ∧ (∀ j, s.ea j = (s.index.toNat + j) % 4096) ∧
      Advanced s t ∧ Unchanged { bytes := bytesFromIndex s (x.val + 1) } s t

/-- `FX65` (R215): `V0` to `Vx` from `(I + j) mod 4096`; `I`, the registers above `Vx` and all of memory as before. -/
def Obligations.RegistersAreLoaded : Prop :=
  ∀ x : RegIdx,
    decode (BitVec.ofNat 16 (0xF065 + x.val * 0x100)) = .ok (.load x) ∧
    ∀ s, ∃ t, exec (.load x) s = .next t ∧
      (∀ j : Fin 16, j.val ≤ x.val → t.reg j = s.byteAt ((s.index.toNat + j.val) % 4096)) ∧
      Advanced s t ∧ Unchanged { regs := fun y => decide (y.val ≤ x.val) } s t

/-- Registers stored by `FX55` come back by `FX65` with the same `x` and `I`, whatever happened to the registers in between
(95_test_vectors.md L1-13). Memory is taken canonical, an invariant of the machine. -/
def Obligations.StoredRegistersComeBack : Prop :=
  ∀ (x : RegIdx) (s t u : State), Memory.wf s.mem → exec (.store x) s = .next t → u.mem = t.mem → u.index = s.index →
    ∃ w, exec (.load x) u = .next w ∧ w.mem = t.mem ∧ ∀ j : RegIdx, w.reg j = if j.val ≤ x.val then s.reg j else u.reg j

/-- Every read returns the value of the most recent write to the same byte, addresses taken modulo 4096, or the reset
content if there was none (R61, R70): stated for any sequence of writes to reset memory, most recent first. The memory
written to is the empty list, which stands for the memory after RESET with the DEFAULT FONT (log 8), and the reset content
of an unwritten byte at 0x000 to 0x04F is that font's (PRESUMED, D28, log 5). -/
def Obligations.MostRecentWriteIsRead : Prop :=
  ∀ (writes : List (Nat × Byte)) (a : Nat),
    Memory.read (writes.foldr (fun w m => Memory.write m w.1 w.2) []) a =
      match writes.find? (fun w => w.1 % 4096 == a % 4096) with
      | some w => w.2
      | none => Config.resetByte (a % 4096)

/-- A byte stored by `FX55` is seen by the very next fetch (R72, decision D7 of the spec, log 13): with `I` at the next
instruction and `x ≥ 1`, the next word is `V0`, `V1`. -/
def Obligations.StoredCodeIsFetchedNext : Prop :=
  ∀ (x : RegIdx) (s t : State), Memory.wf s.mem → 1 ≤ x.val → s.pc.toNat ≤ 4092 → s.index = s.pc + 2 →
    exec (.store x) s = .next t → t.fetch.toNat = (s.reg 0).toNat * 256 + (s.reg 1).toNat

/-! ## Display -/

/-- `00E0` (R240): every pixel off, `VF` and all else unchanged. -/
def Obligations.ClearTurnsEveryPixelOff : Prop :=
  decode 0x00E0 = .ok .cls ∧
  ∀ s : State, ∃ t, exec .cls s = .next t ∧ (∀ r c, r < 32 → c < 64 → Grid.pixel t.display r c = false) ∧
    Advanced s t ∧ Unchanged { pixels := fun _ _ => true } s t

/-- `DXYN` (R241, R242): the loop of the model draws exactly the XOR of the display with the sprite: every pixel is inverted
where the sprite covers it and kept elsewhere, and `VF` is 1 exactly when a covered pixel was on, else 0. The bit order is
decision D14 of the spec (log 20) and `n = 0` is D15 (log 21). -/
def Obligations.DrawIsXorWithTheSprite : Prop :=
  ∀ (x y : RegIdx) (n : Fin 16),
    decode (BitVec.ofNat 16 (0xD000 + x.val * 0x100 + y.val * 0x10 + n.val)) = .ok (.drw x y n) ∧
    ∀ s, ∃ t, exec (.drw x y n) s = .next t ∧
      (∀ r c, Grid.pixel t.display r c = (Grid.pixel s.display r c ^^ spriteCovers s x y n.val r c)) ∧
      (t.reg 15 = 1 ∧ (∃ r c, Grid.pixel s.display r c = true ∧ spriteCovers s x y n.val r c = true) ∨
       t.reg 15 = 0 ∧ ¬(∃ r c, Grid.pixel s.display r c = true ∧ spriteCovers s x y n.val r c = true)) ∧
      Advanced s t ∧ Unchanged { regs := onlyReg 15, pixels := spriteBox s x y n.val } s t

/-- Collision (R244): after a draw `VF` is 1 exactly when some pixel went from on to off, and 0 otherwise. -/
def Obligations.CollisionIsAPixelTurnedOff : Prop :=
  ∀ (x y : RegIdx) (n : Fin 16) (s : State), ∃ t, exec (.drw x y n) s = .next t ∧
    (t.reg 15 = 1 ∧ (∃ r c, Grid.pixel s.display r c = true ∧ Grid.pixel t.display r c = false) ∨
     t.reg 15 = 0 ∧ ¬(∃ r c, Grid.pixel s.display r c = true ∧ Grid.pixel t.display r c = false))

/-- Clipping (R243): a draw changes a pixel only inside the exact box of the sprite, neither coordinate reduced, and a sprite
whose column is 64 or more or whose row is 32 or more draws nothing and collides with nothing. That neither the start nor
the pixel is reduced is R243's reading of the damaged sentence of the source (91_not_in_source.md N23, log 21). -/
def Obligations.SpritesAreClippedNotWrapped : Prop :=
  ∀ (x y : RegIdx) (n : Fin 16) (s : State), ∃ t, exec (.drw x y n) s = .next t ∧
    (∀ r c, Grid.pixel t.display r c ≠ Grid.pixel s.display r c →
      r < 32 ∧ c < 64 ∧ (∃ j < n.val, r = (s.reg y).toNat + j) ∧ (∃ b < 8, c = (s.reg x).toNat + b)) ∧
    (64 ≤ (s.reg x).toNat ∨ 32 ≤ (s.reg y).toNat → t.display = s.display ∧ t.reg 15 = 0)

/-- Drawing is its own inverse (R245, which the spec marks as derived): the same draw twice restores the display, and the
second reports a collision exactly when a covered pixel was off before the first. Neither `x` nor `y` is 15. Which pixels
are covered rests on the bit order of a sprite byte, decision D14 of the spec (PRESUMED, log 20), on the exact, clipped
positions of R243 (N23, log 21), and for `n = 0` on D15 (log 21). -/
def Obligations.DrawingTwiceRestoresTheDisplay : Prop :=
  ∀ (x y : RegIdx) (n : Fin 16) (s : State), x ≠ 15 → y ≠ 15 →
    ∃ t u, exec (.drw x y n) s = .next t ∧ exec (.drw x y n) t = .next u ∧ u.display = s.display ∧
      (u.reg 15 = 1 ↔ ∃ r c, Grid.pixel s.display r c = false ∧ spriteCovers s x y n.val r c = true)

/-! ## Keypad and timers -/

/-- `EX9E` (R260) and `EXA1` (R261): skip if key `Vx` is, or is not, pressed. That an index of 16 or more counts as not
pressed is decision D16 of the spec (log 22). -/
def Obligations.KeySkips : Prop :=
  ∀ x : RegIdx,
    decode (BitVec.ofNat 16 (0xE09E + x.val * 0x100)) = .ok (.skp x) ∧
    decode (BitVec.ofNat 16 (0xE0A1 + x.val * 0x100)) = .ok (.sknp x) ∧
    ∀ s : State, ∃ t u, exec (.skp x) s = .next t ∧ exec (.sknp x) s = .next u ∧
      (∀ k : Fin 16, (s.reg x).toNat = k.val →
        Skipped (s.key[k] = true) s t ∧ Skipped (s.key[k] = false) s u) ∧
      (16 ≤ (s.reg x).toNat → Skipped False s t ∧ Skipped True s u) ∧ Unchanged { } s t ∧ Unchanged { } s u

/-- `FX0A` (R262): with some key pressed, `Vx` is the least such index and `pc` advances; with none, nothing changes. That a
key already held ends the wait is decision D17 of the spec (log 23). -/
def Obligations.WaitTakesTheLowestPressedKey : Prop :=
  ∀ x : RegIdx,
    decode (BitVec.ofNat 16 (0xF00A + x.val * 0x100)) = .ok (.ldVxK x) ∧
    ∀ s : State,
      (∀ k : Fin 16, s.key[k] = true → (∀ j : Fin 16, j < k → s.key[j] = false) →
        ∃ t, exec (.ldVxK x) s = .next t ∧ (t.reg x).toNat = k.val ∧ Advanced s t ∧ Unchanged { regs := onlyReg x } s t) ∧
      ((∀ k : Fin 16, s.key[k] = false) → exec (.ldVxK x) s = .next s)

/-- `FX07` (R263, "Vx ← delay timer."), `FX15` and `FX18` (R264 and R265, "Delay timer / sound timer ← Vx.", the first case
and the second): the delay timer into `Vx`, and `Vx` into either timer. -/
def Obligations.TimerTransfers : Prop :=
  ∀ x : RegIdx,
    decode (BitVec.ofNat 16 (0xF007 + x.val * 0x100)) = .ok (.ldVxDT x) ∧
    decode (BitVec.ofNat 16 (0xF015 + x.val * 0x100)) = .ok (.ldDTVx x) ∧
    decode (BitVec.ofNat 16 (0xF018 + x.val * 0x100)) = .ok (.ldSTVx x) ∧
    ∀ s,
      (∃ t, exec (.ldVxDT x) s = .next t ∧ t.reg x = s.dt ∧ Advanced s t ∧ Unchanged { regs := onlyReg x } s t) ∧
      (∃ t, exec (.ldDTVx x) s = .next t ∧ t.dt = s.reg x ∧ Advanced s t ∧ Unchanged { dt := true } s t) ∧
      (∃ t, exec (.ldSTVx x) s = .next t ∧ t.st = s.reg x ∧ Advanced s t ∧ Unchanged { st := true } s t)

/-! ## Host operations -/

/-- TICK (R312): each timer down by 1 if it is above 0, nothing else; so `n` TICKs with nothing between take each timer down
by `n`, stopping at 0. -/
def Obligations.TicksCountEachTimerDown : Prop :=
  (∀ s : State, ∃ t, invoke .tick s = (t, .ok) ∧ t.dt.toNat = s.dt.toNat - 1 ∧ t.st.toNat = s.st.toNat - 1 ∧
    { t with dt := s.dt, st := s.st } = s) ∧
  ∀ (n : Nat) (s : State), ((stateAt (fun _ => .tick) s n).dt.toNat = s.dt.toNat - n) ∧
    ((stateAt (fun _ => .tick) s n).st.toNat = s.st.toNat - n)

/-- SET_KEY (R317): within 0 to 15 it sets that key and nothing else; outside it is refused with no effect, which is
decision D27 of the spec (log 30). -/
def Obligations.SetKeySetsOneKey : Prop :=
  ∀ (s : State) (pressed : Bool),
    (∀ k : Fin 16, ∃ t, invoke (.setKey k.val pressed) s = (t, .ok) ∧ t.key[k] = pressed ∧
      (∀ j : Fin 16, j ≠ k → t.key[j] = s.key[j]) ∧ { t with key := s.key } = s) ∧
    (∀ k, 16 ≤ k → invoke (.setKey k pressed) s = (s, .refused (.keyIndexOutOfContract k)))

/-- LOAD (R353): an image of at most 3584 bytes is in memory from 0x200 on; a longer one fails with nothing written. That
nothing but the image's bytes changes, on a running or halted machine, is R354, decision D29 of the spec (log 31). Memory is
taken canonical, an invariant of the machine. -/
def Obligations.LoadPlacesTheImage : Prop :=
  ∀ (s : State) (image : List Byte), Memory.wf s.mem →
    (3584 < image.length → invoke (.load image) s = (s, .imageTooLarge)) ∧
    (image.length ≤ 3584 → ∃ t, invoke (.load image) s = (t, .ok) ∧
      (∀ k, (h : k < image.length) → t.byteAt (0x200 + k) = image[k]) ∧
      (∀ a, a < 4096 → a < 0x200 ∨ 0x200 + image.length ≤ a → t.byteAt a = s.byteAt a) ∧ { t with mem := s.mem } = s)

/-- TICK, SET_KEY, LOAD and the accessors act the same whether the machine is running or halted (R315, R354: decisions D26
and D29 of the spec, log 29 and 31), and the accessors return `display`, `DT` and `ST` and change nothing (R316, R318). -/
def Obligations.HaltGatesStepOnly : Prop :=
  (∀ (op : HostOp) (s : State) (h : Bool), op ≠ .step → op ≠ .reset →
    invoke op { s with halted := h } = ({ (invoke op s).1 with halted := h }, (invoke op s).2)) ∧
  (∀ s : State, invoke .display s = (s, .grid s.display) ∧ invoke .delay s = (s, .timer s.dt) ∧
    invoke .sound s = (s, .timer s.st))

/-- Only TICK moves a timer, whatever the number of STEPs between (R313, R359, R42): over any history without RESET, as long
as no STEP runs an instruction that sets it, a timer has gone down by the number of TICKs, stopping at 0; no number of STEPs
stands for time. That TICK acts on a halted machine too, and SET_KEY and LOAD on neither timer there, is decision D26 and D29
of the spec (log 29, log 31). -/
def Obligations.OnlyTicksMoveATimer : Prop :=
  ∀ (history : Nat → HostOp) (s : State) (n : Nat), (∀ k < n, history k ≠ .reset) →
    ((∀ k < n, history k = .step → ∀ x, ¬ Runs (stateAt history s k) (.ldDTVx x)) →
      (stateAt history s n).dt.toNat = s.dt.toNat - (List.range n).countP (fun k => decide (history k = .tick))) ∧
    ((∀ k < n, history k = .step → ∀ x, ¬ Runs (stateAt history s k) (.ldSTVx x)) →
      (stateAt history s n).st.toNat = s.st.toNat - (List.range n).countP (fun k => decide (history k = .tick)))
end

