-- ==== Sys2Proof/Laws/Decode.lean ====
section
/-! SUPPORT. The fields of an encoded word, and a word as the sum of its fields. -/

namespace Sys2Proof

theorem Word.toNat_lt (w : Word) : w.toNat < 65536 := w.isLt

/-- A word is the sum of its four nibbles. -/
theorem Word.toNat_eq_nibbles (w : Word) :
    w.toNat = Word.fieldG w * 0x1000 + (Word.fieldX w).val * 0x100 + (Word.fieldY w).val * 0x10 + (Word.fieldN w).val := by
  have := Word.toNat_lt w
  simp only [Word.fieldG, Word.fieldX, Word.fieldY, Word.fieldN, Word.bits, Fin.val_ofNat]
  omega

/-- A word is its group, its `x` and its low byte. -/
theorem Word.toNat_eq_xnn (w : Word) :
    w.toNat = Word.fieldG w * 0x1000 + (Word.fieldX w).val * 0x100 + (Word.fieldNN w).toNat := by
  have := Word.toNat_lt w
  simp only [Word.fieldG, Word.fieldX, Word.fieldNN, Word.bits, Fin.val_ofNat, BitVec.toNat_ofNat]
  omega

/-- A word is its group and its address. -/
theorem Word.toNat_eq_nnn (w : Word) : w.toNat = Word.fieldG w * 0x1000 + (Word.fieldNNN w).toNat := by
  have := Word.toNat_lt w
  simp only [Word.fieldG, Word.fieldNNN, Word.bits, BitVec.toNat_ofNat]
  omega

theorem Word.fieldG_lt (w : Word) : Word.fieldG w < 16 := Nat.mod_lt _ (by decide)

/-- The low byte is `y` and `n`. -/
theorem Word.fieldNN_eq (w : Word) : (Word.fieldNN w).toNat = (Word.fieldY w).val * 0x10 + (Word.fieldN w).val := by
  have h1 := Word.toNat_eq_nibbles w
  have h2 := Word.toNat_eq_xnn w
  omega

/-! ## `W16-NNN` -/

theorem Word.toNat_encodeNNN {g : Nat} (hg : g < 16) (nnn : Addr) :
    (encodeNNN g nnn).toNat = g * 0x1000 + nnn.toNat := by
  have := nnn.isLt
  simp only [encodeNNN, BitVec.toNat_ofNat]
  omega

theorem Word.fieldG_encodeNNN {g : Nat} (hg : g < 16) (nnn : Addr) : Word.fieldG (encodeNNN g nnn) = g := by
  have := nnn.isLt
  simp only [Word.fieldG, Word.bits, Word.toNat_encodeNNN hg]
  omega

theorem Word.fieldNNN_encodeNNN {g : Nat} (hg : g < 16) (nnn : Addr) : Word.fieldNNN (encodeNNN g nnn) = nnn := by
  have := nnn.isLt
  apply BitVec.eq_of_toNat_eq
  simp only [Word.fieldNNN, Word.bits, Word.toNat_encodeNNN hg, BitVec.toNat_ofNat]
  omega

/-! ## `W16-XNN` and `W16-X` -/

theorem Word.toNat_encodeXNN {g nn : Nat} (hg : g < 16) (hn : nn < 256) (x : RegIdx) :
    (encodeXNN g x nn).toNat = g * 0x1000 + x.val * 0x100 + nn := by
  have := x.isLt
  simp only [encodeXNN, BitVec.toNat_ofNat]
  omega

theorem Word.fieldG_encodeXNN {g nn : Nat} (hg : g < 16) (hn : nn < 256) (x : RegIdx) :
    Word.fieldG (encodeXNN g x nn) = g := by
  have := x.isLt
  simp only [Word.fieldG, Word.bits, Word.toNat_encodeXNN hg hn]
  omega

theorem Word.fieldX_encodeXNN {g nn : Nat} (hg : g < 16) (hn : nn < 256) (x : RegIdx) :
    Word.fieldX (encodeXNN g x nn) = x := by
  have := x.isLt
  apply Fin.ext
  simp only [Word.fieldX, Word.bits, Word.toNat_encodeXNN hg hn, Fin.val_ofNat]
  omega

theorem Word.toNat_fieldNN_encodeXNN {g nn : Nat} (hg : g < 16) (hn : nn < 256) (x : RegIdx) :
    (Word.fieldNN (encodeXNN g x nn)).toNat = nn := by
  have := x.isLt
  simp only [Word.fieldNN, Word.bits, Word.toNat_encodeXNN hg hn, BitVec.toNat_ofNat]
  omega

/-! ## `W16-XYN`, `W16-XY0`, `W16-XYS` -/

theorem Word.toNat_encodeXYN {g n : Nat} (hg : g < 16) (hn : n < 16) (x y : RegIdx) :
    (encodeXYN g x y n).toNat = g * 0x1000 + x.val * 0x100 + y.val * 0x10 + n := by
  have := x.isLt
  have := y.isLt
  simp only [encodeXYN, BitVec.toNat_ofNat]
  omega

theorem Word.fieldG_encodeXYN {g n : Nat} (hg : g < 16) (hn : n < 16) (x y : RegIdx) :
    Word.fieldG (encodeXYN g x y n) = g := by
  have := x.isLt
  have := y.isLt
  simp only [Word.fieldG, Word.bits, Word.toNat_encodeXYN hg hn]
  omega

theorem Word.fieldX_encodeXYN {g n : Nat} (hg : g < 16) (hn : n < 16) (x y : RegIdx) :
    Word.fieldX (encodeXYN g x y n) = x := by
  have := x.isLt
  have := y.isLt
  apply Fin.ext
  simp only [Word.fieldX, Word.bits, Word.toNat_encodeXYN hg hn, Fin.val_ofNat]
  omega

theorem Word.fieldY_encodeXYN {g n : Nat} (hg : g < 16) (hn : n < 16) (x y : RegIdx) :
    Word.fieldY (encodeXYN g x y n) = y := by
  have := x.isLt
  have := y.isLt
  apply Fin.ext
  simp only [Word.fieldY, Word.bits, Word.toNat_encodeXYN hg hn, Fin.val_ofNat]
  omega

theorem Word.val_fieldN_encodeXYN {g n : Nat} (hg : g < 16) (hn : n < 16) (x y : RegIdx) :
    (Word.fieldN (encodeXYN g x y n)).val = n := by
  have := x.isLt
  have := y.isLt
  simp only [Word.fieldN, Word.bits, Word.toNat_encodeXYN hg hn, Fin.val_ofNat]
  omega

/-! ## Bytes -/

/-- A word is the word of its two bytes. -/
@[simp] theorem Word.ofBytes_hi_lo (w : Word) : Word.ofBytes (Word.hiByte w) (Word.loByte w) = w := by
  have := Word.toNat_lt w
  apply BitVec.eq_of_toNat_eq
  simp only [Word.ofBytes, Word.hiByte, Word.loByte, BitVec.toNat_ofNat]
  omega

end Sys2Proof
end

