-- ==== Sys2Proof/Laws/State.lean ====
section
/-! SUPPORT. One lemma per field per update of the state, each true by rfl, so that no proof unfolds a record update. -/

namespace Sys2Proof.Machine

variable (s : State)

/-! ### setReg -/

@[simp] theorem State.setReg_v (x : RegIdx) (b : Byte) : (s.setReg x b).v = s.v.set x b := rfl
@[simp] theorem State.setReg_index (x : RegIdx) (b : Byte) : (s.setReg x b).index = s.index := rfl
@[simp] theorem State.setReg_pc (x : RegIdx) (b : Byte) : (s.setReg x b).pc = s.pc := rfl
@[simp] theorem State.setReg_sp (x : RegIdx) (b : Byte) : (s.setReg x b).sp = s.sp := rfl
@[simp] theorem State.setReg_stack (x : RegIdx) (b : Byte) : (s.setReg x b).stack = s.stack := rfl
@[simp] theorem State.setReg_mem (x : RegIdx) (b : Byte) : (s.setReg x b).mem = s.mem := rfl
@[simp] theorem State.setReg_display (x : RegIdx) (b : Byte) : (s.setReg x b).display = s.display := rfl
@[simp] theorem State.setReg_dt (x : RegIdx) (b : Byte) : (s.setReg x b).dt = s.dt := rfl
@[simp] theorem State.setReg_st (x : RegIdx) (b : Byte) : (s.setReg x b).st = s.st := rfl
@[simp] theorem State.setReg_key (x : RegIdx) (b : Byte) : (s.setReg x b).key = s.key := rfl
@[simp] theorem State.setReg_halted (x : RegIdx) (b : Byte) : (s.setReg x b).halted = s.halted := rfl
@[simp] theorem State.setReg_lastOutcome (x : RegIdx) (b : Byte) : (s.setReg x b).lastOutcome = s.lastOutcome := rfl
@[simp] theorem State.setReg_executed (x : RegIdx) (b : Byte) : (s.setReg x b).executed = s.executed := rfl
@[simp] theorem State.setReg_draws (x : RegIdx) (b : Byte) : (s.setReg x b).draws = s.draws := rfl
@[simp] theorem State.setReg_params (x : RegIdx) (b : Byte) : (s.setReg x b).params = s.params := rfl

/-! ### setFirstRegs -/

@[simp] theorem State.setFirstRegs_v (bs : List Byte) : (s.setFirstRegs bs).v = Vector.ofFn fun j : Fin 16 => bs.getD j.val s.v[j] := rfl
@[simp] theorem State.setFirstRegs_index (bs : List Byte) : (s.setFirstRegs bs).index = s.index := rfl
@[simp] theorem State.setFirstRegs_pc (bs : List Byte) : (s.setFirstRegs bs).pc = s.pc := rfl
@[simp] theorem State.setFirstRegs_sp (bs : List Byte) : (s.setFirstRegs bs).sp = s.sp := rfl
@[simp] theorem State.setFirstRegs_stack (bs : List Byte) : (s.setFirstRegs bs).stack = s.stack := rfl
@[simp] theorem State.setFirstRegs_mem (bs : List Byte) : (s.setFirstRegs bs).mem = s.mem := rfl
@[simp] theorem State.setFirstRegs_display (bs : List Byte) : (s.setFirstRegs bs).display = s.display := rfl
@[simp] theorem State.setFirstRegs_dt (bs : List Byte) : (s.setFirstRegs bs).dt = s.dt := rfl
@[simp] theorem State.setFirstRegs_st (bs : List Byte) : (s.setFirstRegs bs).st = s.st := rfl
@[simp] theorem State.setFirstRegs_key (bs : List Byte) : (s.setFirstRegs bs).key = s.key := rfl
@[simp] theorem State.setFirstRegs_halted (bs : List Byte) : (s.setFirstRegs bs).halted = s.halted := rfl
@[simp] theorem State.setFirstRegs_lastOutcome (bs : List Byte) : (s.setFirstRegs bs).lastOutcome = s.lastOutcome := rfl
@[simp] theorem State.setFirstRegs_executed (bs : List Byte) : (s.setFirstRegs bs).executed = s.executed := rfl
@[simp] theorem State.setFirstRegs_draws (bs : List Byte) : (s.setFirstRegs bs).draws = s.draws := rfl
@[simp] theorem State.setFirstRegs_params (bs : List Byte) : (s.setFirstRegs bs).params = s.params := rfl

/-! ### setIndex -/

@[simp] theorem State.setIndex_v (w : Word) : (s.setIndex w).v = s.v := rfl
@[simp] theorem State.setIndex_index (w : Word) : (s.setIndex w).index = w := rfl
@[simp] theorem State.setIndex_pc (w : Word) : (s.setIndex w).pc = s.pc := rfl
@[simp] theorem State.setIndex_sp (w : Word) : (s.setIndex w).sp = s.sp := rfl
@[simp] theorem State.setIndex_stack (w : Word) : (s.setIndex w).stack = s.stack := rfl
@[simp] theorem State.setIndex_mem (w : Word) : (s.setIndex w).mem = s.mem := rfl
@[simp] theorem State.setIndex_display (w : Word) : (s.setIndex w).display = s.display := rfl
@[simp] theorem State.setIndex_dt (w : Word) : (s.setIndex w).dt = s.dt := rfl
@[simp] theorem State.setIndex_st (w : Word) : (s.setIndex w).st = s.st := rfl
@[simp] theorem State.setIndex_key (w : Word) : (s.setIndex w).key = s.key := rfl
@[simp] theorem State.setIndex_halted (w : Word) : (s.setIndex w).halted = s.halted := rfl
@[simp] theorem State.setIndex_lastOutcome (w : Word) : (s.setIndex w).lastOutcome = s.lastOutcome := rfl
@[simp] theorem State.setIndex_executed (w : Word) : (s.setIndex w).executed = s.executed := rfl
@[simp] theorem State.setIndex_draws (w : Word) : (s.setIndex w).draws = s.draws := rfl
@[simp] theorem State.setIndex_params (w : Word) : (s.setIndex w).params = s.params := rfl

/-! ### setPc -/

@[simp] theorem State.setPc_v (w : Word) : (s.setPc w).v = s.v := rfl
@[simp] theorem State.setPc_index (w : Word) : (s.setPc w).index = s.index := rfl
@[simp] theorem State.setPc_pc (w : Word) : (s.setPc w).pc = w := rfl
@[simp] theorem State.setPc_sp (w : Word) : (s.setPc w).sp = s.sp := rfl
@[simp] theorem State.setPc_stack (w : Word) : (s.setPc w).stack = s.stack := rfl
@[simp] theorem State.setPc_mem (w : Word) : (s.setPc w).mem = s.mem := rfl
@[simp] theorem State.setPc_display (w : Word) : (s.setPc w).display = s.display := rfl
@[simp] theorem State.setPc_dt (w : Word) : (s.setPc w).dt = s.dt := rfl
@[simp] theorem State.setPc_st (w : Word) : (s.setPc w).st = s.st := rfl
@[simp] theorem State.setPc_key (w : Word) : (s.setPc w).key = s.key := rfl
@[simp] theorem State.setPc_halted (w : Word) : (s.setPc w).halted = s.halted := rfl
@[simp] theorem State.setPc_lastOutcome (w : Word) : (s.setPc w).lastOutcome = s.lastOutcome := rfl
@[simp] theorem State.setPc_executed (w : Word) : (s.setPc w).executed = s.executed := rfl
@[simp] theorem State.setPc_draws (w : Word) : (s.setPc w).draws = s.draws := rfl
@[simp] theorem State.setPc_params (w : Word) : (s.setPc w).params = s.params := rfl

/-! ### advance -/

@[simp] theorem State.advance_v : (s.advance).v = s.v := rfl
@[simp] theorem State.advance_index : (s.advance).index = s.index := rfl
@[simp] theorem State.advance_pc : (s.advance).pc = s.pc + 2 := rfl
@[simp] theorem State.advance_sp : (s.advance).sp = s.sp := rfl
@[simp] theorem State.advance_stack : (s.advance).stack = s.stack := rfl
@[simp] theorem State.advance_mem : (s.advance).mem = s.mem := rfl
@[simp] theorem State.advance_display : (s.advance).display = s.display := rfl
@[simp] theorem State.advance_dt : (s.advance).dt = s.dt := rfl
@[simp] theorem State.advance_st : (s.advance).st = s.st := rfl
@[simp] theorem State.advance_key : (s.advance).key = s.key := rfl
@[simp] theorem State.advance_halted : (s.advance).halted = s.halted := rfl
@[simp] theorem State.advance_lastOutcome : (s.advance).lastOutcome = s.lastOutcome := rfl
@[simp] theorem State.advance_executed : (s.advance).executed = s.executed := rfl
@[simp] theorem State.advance_draws : (s.advance).draws = s.draws := rfl
@[simp] theorem State.advance_params : (s.advance).params = s.params := rfl

/-! ### skipIf -/

@[simp] theorem State.skipIf_v (c : Bool) : (s.skipIf c).v = s.v := rfl
@[simp] theorem State.skipIf_index (c : Bool) : (s.skipIf c).index = s.index := rfl
@[simp] theorem State.skipIf_pc (c : Bool) : (s.skipIf c).pc = if c then s.pc + 4 else s.pc + 2 := rfl
@[simp] theorem State.skipIf_sp (c : Bool) : (s.skipIf c).sp = s.sp := rfl
@[simp] theorem State.skipIf_stack (c : Bool) : (s.skipIf c).stack = s.stack := rfl
@[simp] theorem State.skipIf_mem (c : Bool) : (s.skipIf c).mem = s.mem := rfl
@[simp] theorem State.skipIf_display (c : Bool) : (s.skipIf c).display = s.display := rfl
@[simp] theorem State.skipIf_dt (c : Bool) : (s.skipIf c).dt = s.dt := rfl
@[simp] theorem State.skipIf_st (c : Bool) : (s.skipIf c).st = s.st := rfl
@[simp] theorem State.skipIf_key (c : Bool) : (s.skipIf c).key = s.key := rfl
@[simp] theorem State.skipIf_halted (c : Bool) : (s.skipIf c).halted = s.halted := rfl
@[simp] theorem State.skipIf_lastOutcome (c : Bool) : (s.skipIf c).lastOutcome = s.lastOutcome := rfl
@[simp] theorem State.skipIf_executed (c : Bool) : (s.skipIf c).executed = s.executed := rfl
@[simp] theorem State.skipIf_draws (c : Bool) : (s.skipIf c).draws = s.draws := rfl
@[simp] theorem State.skipIf_params (c : Bool) : (s.skipIf c).params = s.params := rfl

/-! ### setDT -/

@[simp] theorem State.setDT_v (b : Byte) : (s.setDT b).v = s.v := rfl
@[simp] theorem State.setDT_index (b : Byte) : (s.setDT b).index = s.index := rfl
@[simp] theorem State.setDT_pc (b : Byte) : (s.setDT b).pc = s.pc := rfl
@[simp] theorem State.setDT_sp (b : Byte) : (s.setDT b).sp = s.sp := rfl
@[simp] theorem State.setDT_stack (b : Byte) : (s.setDT b).stack = s.stack := rfl
@[simp] theorem State.setDT_mem (b : Byte) : (s.setDT b).mem = s.mem := rfl
@[simp] theorem State.setDT_display (b : Byte) : (s.setDT b).display = s.display := rfl
@[simp] theorem State.setDT_dt (b : Byte) : (s.setDT b).dt = b := rfl
@[simp] theorem State.setDT_st (b : Byte) : (s.setDT b).st = s.st := rfl
@[simp] theorem State.setDT_key (b : Byte) : (s.setDT b).key = s.key := rfl
@[simp] theorem State.setDT_halted (b : Byte) : (s.setDT b).halted = s.halted := rfl
@[simp] theorem State.setDT_lastOutcome (b : Byte) : (s.setDT b).lastOutcome = s.lastOutcome := rfl
@[simp] theorem State.setDT_executed (b : Byte) : (s.setDT b).executed = s.executed := rfl
@[simp] theorem State.setDT_draws (b : Byte) : (s.setDT b).draws = s.draws := rfl
@[simp] theorem State.setDT_params (b : Byte) : (s.setDT b).params = s.params := rfl

/-! ### setST -/

@[simp] theorem State.setST_v (b : Byte) : (s.setST b).v = s.v := rfl
@[simp] theorem State.setST_index (b : Byte) : (s.setST b).index = s.index := rfl
@[simp] theorem State.setST_pc (b : Byte) : (s.setST b).pc = s.pc := rfl
@[simp] theorem State.setST_sp (b : Byte) : (s.setST b).sp = s.sp := rfl
@[simp] theorem State.setST_stack (b : Byte) : (s.setST b).stack = s.stack := rfl
@[simp] theorem State.setST_mem (b : Byte) : (s.setST b).mem = s.mem := rfl
@[simp] theorem State.setST_display (b : Byte) : (s.setST b).display = s.display := rfl
@[simp] theorem State.setST_dt (b : Byte) : (s.setST b).dt = s.dt := rfl
@[simp] theorem State.setST_st (b : Byte) : (s.setST b).st = b := rfl
@[simp] theorem State.setST_key (b : Byte) : (s.setST b).key = s.key := rfl
@[simp] theorem State.setST_halted (b : Byte) : (s.setST b).halted = s.halted := rfl
@[simp] theorem State.setST_lastOutcome (b : Byte) : (s.setST b).lastOutcome = s.lastOutcome := rfl
@[simp] theorem State.setST_executed (b : Byte) : (s.setST b).executed = s.executed := rfl
@[simp] theorem State.setST_draws (b : Byte) : (s.setST b).draws = s.draws := rfl
@[simp] theorem State.setST_params (b : Byte) : (s.setST b).params = s.params := rfl

/-! ### storeAtIndex -/

@[simp] theorem State.storeAtIndex_v (vs : List Byte) : (s.storeAtIndex vs).v = s.v := rfl
@[simp] theorem State.storeAtIndex_index (vs : List Byte) : (s.storeAtIndex vs).index = s.index := rfl
@[simp] theorem State.storeAtIndex_pc (vs : List Byte) : (s.storeAtIndex vs).pc = s.pc := rfl
@[simp] theorem State.storeAtIndex_sp (vs : List Byte) : (s.storeAtIndex vs).sp = s.sp := rfl
@[simp] theorem State.storeAtIndex_stack (vs : List Byte) : (s.storeAtIndex vs).stack = s.stack := rfl
@[simp] theorem State.storeAtIndex_mem (vs : List Byte) : (s.storeAtIndex vs).mem = Memory.writeFrom s.mem s.index.toNat 0 vs := rfl
@[simp] theorem State.storeAtIndex_display (vs : List Byte) : (s.storeAtIndex vs).display = s.display := rfl
@[simp] theorem State.storeAtIndex_dt (vs : List Byte) : (s.storeAtIndex vs).dt = s.dt := rfl
@[simp] theorem State.storeAtIndex_st (vs : List Byte) : (s.storeAtIndex vs).st = s.st := rfl
@[simp] theorem State.storeAtIndex_key (vs : List Byte) : (s.storeAtIndex vs).key = s.key := rfl
@[simp] theorem State.storeAtIndex_halted (vs : List Byte) : (s.storeAtIndex vs).halted = s.halted := rfl
@[simp] theorem State.storeAtIndex_lastOutcome (vs : List Byte) : (s.storeAtIndex vs).lastOutcome = s.lastOutcome := rfl
@[simp] theorem State.storeAtIndex_executed (vs : List Byte) : (s.storeAtIndex vs).executed = s.executed := rfl
@[simp] theorem State.storeAtIndex_draws (vs : List Byte) : (s.storeAtIndex vs).draws = s.draws := rfl
@[simp] theorem State.storeAtIndex_params (vs : List Byte) : (s.storeAtIndex vs).params = s.params := rfl

/-! ### takeFault -/

@[simp] theorem State.takeFault_v (f : Fault) : (s.takeFault f).v = s.v := rfl
@[simp] theorem State.takeFault_index (f : Fault) : (s.takeFault f).index = s.index := rfl
@[simp] theorem State.takeFault_pc (f : Fault) : (s.takeFault f).pc = s.pc := rfl
@[simp] theorem State.takeFault_sp (f : Fault) : (s.takeFault f).sp = s.sp := rfl
@[simp] theorem State.takeFault_stack (f : Fault) : (s.takeFault f).stack = s.stack := rfl
@[simp] theorem State.takeFault_mem (f : Fault) : (s.takeFault f).mem = s.mem := rfl
@[simp] theorem State.takeFault_display (f : Fault) : (s.takeFault f).display = s.display := rfl
@[simp] theorem State.takeFault_dt (f : Fault) : (s.takeFault f).dt = s.dt := rfl
@[simp] theorem State.takeFault_st (f : Fault) : (s.takeFault f).st = s.st := rfl
@[simp] theorem State.takeFault_key (f : Fault) : (s.takeFault f).key = s.key := rfl
@[simp] theorem State.takeFault_halted (f : Fault) : (s.takeFault f).halted = true := rfl
@[simp] theorem State.takeFault_lastOutcome (f : Fault) : (s.takeFault f).lastOutcome = some (.fault f) := rfl
@[simp] theorem State.takeFault_executed (f : Fault) : (s.takeFault f).executed = s.executed := rfl
@[simp] theorem State.takeFault_draws (f : Fault) : (s.takeFault f).draws = s.draws := rfl
@[simp] theorem State.takeFault_params (f : Fault) : (s.takeFault f).params = s.params := rfl

/-! ### retire -/

@[simp] theorem State.retire_v : (s.retire).v = s.v := rfl
@[simp] theorem State.retire_index : (s.retire).index = s.index := rfl
@[simp] theorem State.retire_pc : (s.retire).pc = s.pc := rfl
@[simp] theorem State.retire_sp : (s.retire).sp = s.sp := rfl
@[simp] theorem State.retire_stack : (s.retire).stack = s.stack := rfl
@[simp] theorem State.retire_mem : (s.retire).mem = s.mem := rfl
@[simp] theorem State.retire_display : (s.retire).display = s.display := rfl
@[simp] theorem State.retire_dt : (s.retire).dt = s.dt := rfl
@[simp] theorem State.retire_st : (s.retire).st = s.st := rfl
@[simp] theorem State.retire_key : (s.retire).key = s.key := rfl
@[simp] theorem State.retire_halted : (s.retire).halted = s.halted := rfl
@[simp] theorem State.retire_lastOutcome : (s.retire).lastOutcome = some .ok := rfl
@[simp] theorem State.retire_executed : (s.retire).executed = s.executed + 1 := rfl
@[simp] theorem State.retire_draws : (s.retire).draws = s.draws := rfl
@[simp] theorem State.retire_params : (s.retire).params = s.params := rfl

/-! ### tick -/

@[simp] theorem State.tick_v : (s.tick).v = s.v := rfl
@[simp] theorem State.tick_index : (s.tick).index = s.index := rfl
@[simp] theorem State.tick_pc : (s.tick).pc = s.pc := rfl
@[simp] theorem State.tick_sp : (s.tick).sp = s.sp := rfl
@[simp] theorem State.tick_stack : (s.tick).stack = s.stack := rfl
@[simp] theorem State.tick_mem : (s.tick).mem = s.mem := rfl
@[simp] theorem State.tick_display : (s.tick).display = s.display := rfl
@[simp] theorem State.tick_dt : (s.tick).dt = countDown s.dt := rfl
@[simp] theorem State.tick_st : (s.tick).st = countDown s.st := rfl
@[simp] theorem State.tick_key : (s.tick).key = s.key := rfl
@[simp] theorem State.tick_halted : (s.tick).halted = s.halted := rfl
@[simp] theorem State.tick_lastOutcome : (s.tick).lastOutcome = s.lastOutcome := rfl
@[simp] theorem State.tick_executed : (s.tick).executed = s.executed := rfl
@[simp] theorem State.tick_draws : (s.tick).draws = s.draws := rfl
@[simp] theorem State.tick_params : (s.tick).params = s.params := rfl

/-! ### resetOp -/

@[simp] theorem State.resetOp_v : (s.resetOp).v = Vector.replicate 16 0 := rfl
@[simp] theorem State.resetOp_index : (s.resetOp).index = 0 := rfl
@[simp] theorem State.resetOp_pc : (s.resetOp).pc = 0x200 := rfl
@[simp] theorem State.resetOp_sp : (s.resetOp).sp = 0 := rfl
@[simp] theorem State.resetOp_stack : (s.resetOp).stack = Vector.replicate 16 0 := rfl
@[simp] theorem State.resetOp_mem : (s.resetOp).mem = Memory.writeFrom [] Config.fontBase 0 s.params.font.toList := rfl
@[simp] theorem State.resetOp_display : (s.resetOp).display = Grid.clear := rfl
@[simp] theorem State.resetOp_dt : (s.resetOp).dt = 0 := rfl
@[simp] theorem State.resetOp_st : (s.resetOp).st = 0 := rfl
@[simp] theorem State.resetOp_key : (s.resetOp).key = Vector.replicate 16 false := rfl
@[simp] theorem State.resetOp_halted : (s.resetOp).halted = false := rfl
@[simp] theorem State.resetOp_lastOutcome : (s.resetOp).lastOutcome = none := rfl
@[simp] theorem State.resetOp_executed : (s.resetOp).executed = 0 := rfl
@[simp] theorem State.resetOp_draws : (s.resetOp).draws = s.draws := rfl
@[simp] theorem State.resetOp_params : (s.resetOp).params = s.params := rfl

/-! ### withDiagnostics -/

@[simp] theorem State.withDiagnostics_v (o : Option StepOutcome) (k : Nat) : (s.withDiagnostics o k).v = s.v := rfl
@[simp] theorem State.withDiagnostics_index (o : Option StepOutcome) (k : Nat) : (s.withDiagnostics o k).index = s.index := rfl
@[simp] theorem State.withDiagnostics_pc (o : Option StepOutcome) (k : Nat) : (s.withDiagnostics o k).pc = s.pc := rfl
@[simp] theorem State.withDiagnostics_sp (o : Option StepOutcome) (k : Nat) : (s.withDiagnostics o k).sp = s.sp := rfl
@[simp] theorem State.withDiagnostics_stack (o : Option StepOutcome) (k : Nat) : (s.withDiagnostics o k).stack = s.stack := rfl
@[simp] theorem State.withDiagnostics_mem (o : Option StepOutcome) (k : Nat) : (s.withDiagnostics o k).mem = s.mem := rfl
@[simp] theorem State.withDiagnostics_display (o : Option StepOutcome) (k : Nat) : (s.withDiagnostics o k).display = s.display := rfl
@[simp] theorem State.withDiagnostics_dt (o : Option StepOutcome) (k : Nat) : (s.withDiagnostics o k).dt = s.dt := rfl
@[simp] theorem State.withDiagnostics_st (o : Option StepOutcome) (k : Nat) : (s.withDiagnostics o k).st = s.st := rfl
@[simp] theorem State.withDiagnostics_key (o : Option StepOutcome) (k : Nat) : (s.withDiagnostics o k).key = s.key := rfl
@[simp] theorem State.withDiagnostics_halted (o : Option StepOutcome) (k : Nat) : (s.withDiagnostics o k).halted = s.halted := rfl
@[simp] theorem State.withDiagnostics_lastOutcome (o : Option StepOutcome) (k : Nat) : (s.withDiagnostics o k).lastOutcome = o := rfl
@[simp] theorem State.withDiagnostics_executed (o : Option StepOutcome) (k : Nat) : (s.withDiagnostics o k).executed = k := rfl
@[simp] theorem State.withDiagnostics_draws (o : Option StepOutcome) (k : Nat) : (s.withDiagnostics o k).draws = s.draws := rfl
@[simp] theorem State.withDiagnostics_params (o : Option StepOutcome) (k : Nat) : (s.withDiagnostics o k).params = s.params := rfl

/-! ### Observations of the state -/

theorem State.reg_congr {s t : State} (h : t.v = s.v) (x : RegIdx) : t.reg x = s.reg x := by
  simp [State.reg, h]

theorem State.byteAt_congr {s t : State} (h : t.mem = s.mem) (a : Nat) : t.byteAt a = s.byteAt a := by
  simp [State.byteAt, h]

theorem State.ea_congr {s t : State} (h : t.index = s.index) (j : Nat) : t.ea j = s.ea j := by
  simp [State.ea, h]

end Sys2Proof.Machine
end

