-- ==== Sys2Proof/Laws/Memory.lean ====
section
/-! SUPPORT. The laws of memory: a write is read back at its address and nowhere else, every operation keeps the canonical
form, and canonical memories that read alike are equal. -/

namespace Sys2Proof.Machine

/-! ## One cell -/

/-- Rising addresses above `a` hold no cell for `a`. -/
theorem Memory.cell?_eq_none {m : Memory} {a : Nat} (h : ∀ c ∈ m, a < c.1) : Memory.cell? m a = none := by
  induction m with
  | nil => rfl
  | cons c m ih =>
    have := h c (by simp)
    simp only [Memory.cell?]
    rw [if_neg (by omega), ih fun d hd => h d (by simp [hd])]

/-- Addresses of a poked list are the old ones or the poked one. -/
theorem Memory.mem_poke {m : Memory} {a : Nat} {v : Byte} {c : Host.Cell} (h : c ∈ Memory.poke m a v) :
    c ∈ m ∨ (c = (a, v) ∧ v ≠ Config.resetByte a) := by
  induction m with
  | nil => simp only [Memory.poke] at h; split at h <;> simp_all
  | cons d m ih =>
    obtain ⟨b, w⟩ := d
    simp only [Memory.poke] at h
    split at h
    · split at h <;> simp_all; tauto
    · split at h
      · split at h <;> simp_all; tauto
      · rcases List.mem_cons.mp h with h | h
        · simp [h]
        · rcases ih h with h | h <;> simp [h]

/-- A poke keeps the canonical form. -/
theorem Memory.wf_poke {m : Memory} {a : Nat} {v : Byte} (h : Memory.wf m) (ha : a < Config.memSize) :
    Memory.wf (Memory.poke m a v) := by
  refine ⟨?_, fun c hc => ?_⟩
  · obtain ⟨hp, -⟩ := h
    induction m with
    | nil => simp only [Memory.poke]; split <;> simp
    | cons d m ih =>
      obtain ⟨b, w⟩ := d
      obtain ⟨hd, hm⟩ := List.pairwise_cons.mp hp
      simp only [Memory.poke]
      split
      next hlt =>
        split
        · exact hp
        · refine List.pairwise_cons.mpr ⟨fun c hc => ?_, hp⟩
          rcases List.mem_cons.mp hc with rfl | hc
          · exact hlt
          · exact lt_trans hlt (hd c hc)
      next =>
        split
        next heq =>
          subst heq
          split
          · exact hm
          · exact List.pairwise_cons.mpr ⟨hd, hm⟩
        next =>
          refine List.pairwise_cons.mpr ⟨fun c hc => ?_, ih hm⟩
          rcases Memory.mem_poke hc with hc | ⟨rfl, -⟩
          · exact hd c hc
          · show b < a; omega
  · rcases Memory.mem_poke hc with hc | ⟨rfl, hv⟩
    · exact h.2 c hc
    · exact ⟨ha, hv⟩

/-- Reading a cell after a poke. -/
theorem Memory.peek_poke {m : Memory} (h : Memory.wf m) (a b : Nat) (v : Byte) :
    Memory.peek (Memory.poke m a v) b = if b = a then v else Memory.peek m b := by
  obtain ⟨hp, -⟩ := h
  unfold Memory.peek
  induction m with
  | nil => simp only [Memory.poke]; split <;> simp only [Memory.cell?] <;> split <;> simp_all
  | cons d m ih =>
    obtain ⟨k, w⟩ := d
    obtain ⟨hd, hm⟩ := List.pairwise_cons.mp hp
    have hnone : ∀ x, x ≤ k → Memory.cell? m x = none := fun x hx =>
      Memory.cell?_eq_none fun c hc => lt_of_le_of_lt hx (hd c hc)
    specialize ih hm
    simp only [Memory.poke]
    split
    next hlt =>
      split
      next hv =>
        by_cases hb : b = a
        · subst hb
          simp [Memory.cell?, hnone b (by omega), hv, show ¬ b = k by omega]
        · simp [hb]
      next =>
        by_cases hb : b = a <;> simp [Memory.cell?, hb]
    next =>
      split
      next heq =>
        subst heq
        split
        next hv =>
          by_cases hb : b = a
          · subst hb; simp [hnone b le_rfl, hv]
          · simp [Memory.cell?, hb]
        next => by_cases hb : b = a <;> simp [Memory.cell?, hb]
      next =>
        simp only [Memory.cell?]
        by_cases hk : b = k
        · simp [hk]; intro h; omega
        · simp only [hk, if_false]; exact ih

/-! ## The primitives of R61 -/

theorem Memory.wrap_lt (a : Nat) : Memory.wrap a < Config.memSize := Nat.mod_lt _ (by decide)

@[simp] theorem Memory.wrap_wrap (a : Nat) : Memory.wrap (Memory.wrap a) = Memory.wrap a := Nat.mod_mod _ _

@[simp] theorem Memory.read_wrap (m : Memory) (a : Nat) : Memory.read m (Memory.wrap a) = Memory.read m a := by
  simp [Memory.read]

@[simp] theorem Memory.read_nil (a : Nat) : Memory.read [] a = Config.resetByte (Memory.wrap a) := rfl

/-- A write keeps the canonical form. -/
theorem Memory.wf_write {m : Memory} (h : Memory.wf m) (a : Nat) (v : Byte) : Memory.wf (Memory.write m a v) :=
  Memory.wf_poke h (Memory.wrap_lt a)

/-- A byte written is read back at its address, every other address reads as before. -/
theorem Memory.read_write {m : Memory} (h : Memory.wf m) (a b : Nat) (v : Byte) :
    Memory.read (Memory.write m a v) b = if Memory.wrap b = Memory.wrap a then v else Memory.read m b :=
  Memory.peek_poke h _ _ _

theorem Memory.wf_nil : Memory.wf [] := by simp [Memory.wf]

/-- Canonical memories that read alike at every address are the same list. -/
theorem Memory.ext_read {m n : Memory} (hm : Memory.wf m) (hn : Memory.wf n)
    (h : ∀ a, Memory.read m a = Memory.read n a) : m = n := by
  have hpeek : ∀ a, a < Config.memSize → Memory.peek m a = Memory.peek n a := fun a ha => by
    have := h a
    simpa [Memory.read, Memory.wrap, Nat.mod_eq_of_lt ha] using this
  clear h
  induction m generalizing n with
  | nil =>
    cases n with
    | nil => rfl
    | cons d n =>
      have hd := hn.2 d (by simp)
      have := hpeek d.1 hd.1
      simp only [Memory.peek, Memory.cell?, if_true, Option.getD_none, Option.getD_some] at this
      exact absurd this.symm hd.2
  | cons c m ih =>
    obtain ⟨hcm, hm'⟩ := List.pairwise_cons.mp hm.1
    have hc := hm.2 c (by simp)
    cases n with
    | nil =>
      have := hpeek c.1 hc.1
      simp only [Memory.peek, Memory.cell?, if_true, Option.getD_none, Option.getD_some] at this
      exact absurd this hc.2
    | cons d n =>
      obtain ⟨hdn, hn'⟩ := List.pairwise_cons.mp hn.1
      have hd := hn.2 d (by simp)
      obtain ⟨b, v⟩ := c
      obtain ⟨e, w⟩ := d
      have hnone : ∀ {k : Memory} {x y : Nat}, (∀ c ∈ k, x < c.1) → y ≤ x → Memory.cell? k y = none :=
        fun hk hy => Memory.cell?_eq_none fun c hc => lt_of_le_of_lt hy (hk c hc)
      have hbe : b = e := by
        rcases Nat.lt_trichotomy b e with hlt | heq | hlt
        · have := hpeek b hc.1
          simp only [Memory.peek, Memory.cell?, if_true, if_neg (Nat.ne_of_lt hlt), hnone hdn hlt.le,
            Option.getD_none, Option.getD_some] at this
          exact absurd this hc.2
        · exact heq
        · have := hpeek e hd.1
          simp only [Memory.peek, Memory.cell?, if_true, if_neg (Nat.ne_of_lt hlt), hnone hcm hlt.le,
            Option.getD_none, Option.getD_some] at this
          exact absurd this.symm hd.2
      subst hbe
      have hvw : v = w := by simpa [Memory.peek, Memory.cell?] using hpeek b hc.1
      subst hvw
      congr 1
      refine ih ⟨hm', fun c h => hm.2 c (by simp [h])⟩ ⟨hn', fun c h => hn.2 c (by simp [h])⟩ fun a ha => ?_
      by_cases hab : a = b
      · simp [Memory.peek, hab, hnone hcm le_rfl, hnone hdn le_rfl]
      · simpa [Memory.peek, Memory.cell?, hab] using hpeek a ha

/-! ## Several bytes -/

/-- Writing several bytes keeps the canonical form. -/
theorem Memory.wf_writeFrom {m : Memory} (h : Memory.wf m) (base j : Nat) (vs : List Byte) :
    Memory.wf (Memory.writeFrom m base j vs) := by
  induction vs generalizing m j with
  | nil => exact h
  | cons v vs ih => exact ih (Memory.wf_write h _ _) _

/-- An address none of the bytes goes to reads as before. -/
theorem Memory.read_writeFrom_of_ne {m : Memory} (h : Memory.wf m) (base j : Nat) (vs : List Byte) (a : Nat)
    (ha : ∀ k < vs.length, Memory.ea base (j + k) ≠ Memory.wrap a) :
    Memory.read (Memory.writeFrom m base j vs) a = Memory.read m a := by
  induction vs generalizing m j with
  | nil => rfl
  | cons v vs ih =>
    have h0 := ha 0 (by simp)
    simp only [Memory.writeFrom]
    rw [ih (Memory.wf_write h _ _) (j + 1) fun k hk => by
      have := ha (k + 1) (by simpa using hk); rwa [show j + (k + 1) = j + 1 + k by omega] at this]
    rw [Memory.read_write h, if_neg]
    simp only [Memory.ea, Memory.wrap_wrap, Nat.add_zero] at h0 ⊢
    exact fun h => h0 h.symm

/-- At most 4096 bytes written in one go are each read back where they went. -/
theorem Memory.read_writeFrom {m : Memory} (h : Memory.wf m) (base j : Nat) (vs : List Byte)
    (hl : vs.length ≤ Config.memSize) (k : Nat) (hk : k < vs.length) :
    Memory.read (Memory.writeFrom m base j vs) (base + j + k) = vs[k] := by
  induction vs generalizing m j k with
  | nil => simp at hk
  | cons v vs ih =>
    simp only [Memory.writeFrom]
    have hl' : vs.length + 1 ≤ 4096 := by simpa [Config.memSize] using hl
    cases k with
    | zero =>
      rw [Memory.read_writeFrom_of_ne (Memory.wf_write h _ _), Memory.read_write h, if_pos]
      · simp
      · simp [Memory.ea]
      · intro k hk
        simp only [Memory.ea, Memory.wrap, Config.memSize]
        omega
    | succ k =>
      have := ih (Memory.wf_write h (Memory.ea base j) v) (j + 1) (by simp [Config.memSize]; omega) k (by simpa using hk)
      rw [show base + j + (k + 1) = base + (j + 1) + k by omega, this]
      simp

@[simp] theorem Memory.length_readFrom (m : Memory) (base count : Nat) :
    (Memory.readFrom m base count).length = count := by simp [Memory.readFrom]

/-- The k-th byte read. -/
theorem Memory.getElem_readFrom (m : Memory) (base count k : Nat) (h : k < count) :
    (Memory.readFrom m base count)[k]'(by simpa using h) = Memory.read m (base + k) := by
  simp [Memory.readFrom, Memory.ea]

theorem Memory.getD_readFrom (m : Memory) (base count k : Nat) (d : Byte) :
    (Memory.readFrom m base count).getD k d = if k < count then Memory.read m (base + k) else d := by
  by_cases h : k < count
  · simp only [List.getD_eq_getElem?_getD, h, if_true]
    rw [List.getElem?_eq_getElem (by simpa using h), Memory.getElem_readFrom _ _ _ _ h]; rfl
  · simp [List.getD_eq_getElem?_getD, h]

end Sys2Proof.Machine
end

