-- ==== Sys2Proof/Laws/Draw.lean ====
section
/-! SUPPORT. The laws of drawing: what one pixel, one sprite row and a whole sprite do to the grid and to the collision. -/

namespace Sys2Proof.Machine

/-- A pixel off the grid reads as off. -/
theorem Grid.pixel_off_grid (g : Grid) (r c : Nat) (h : ¬(r < 32 ∧ c < 64)) : Grid.pixel g r c = false := by
  simp [Grid.pixel, h]

@[simp] theorem Grid.pixel_clear (r c : Nat) : Grid.pixel Grid.clear r c = false := by
  simp [Grid.pixel, Grid.clear]

/-- Flipping inverts the one pixel if it is on the grid and no other. -/
theorem Grid.pixel_flip (g : Grid) (r c r' c' : Nat) :
    Grid.pixel (Grid.flip g r c) r' c' =
      (Grid.pixel g r' c' ^^ decide (r' = r ∧ c' = c ∧ r < 32 ∧ c < 64)) := by
  by_cases h : r < 32 ∧ c < 64
  · by_cases h' : r' < 32 ∧ c' < 64
    · obtain ⟨h1, h2⟩ := h
      obtain ⟨h3, h4⟩ := h'
      simp only [Grid.flip, Grid.pixel, h1, h2, h3, h4, and_self, dif_pos, Vector.getElem_set, and_true]
      by_cases hr : r = r'
      · subst hr
        by_cases hc : c = c'
        · subst hc; simp
        · simp [hc, Ne.symm hc]
      · simp [hr, Ne.symm hr]
    · rw [Grid.pixel_off_grid _ _ _ h', Grid.pixel_off_grid _ _ _ h']
      have : ¬(r' = r ∧ c' = c ∧ r < 32 ∧ c < 64) := by rintro ⟨rfl, rfl, hh⟩; exact h' hh
      simp [this]
  · have : ¬(r' = r ∧ c' = c ∧ r < 32 ∧ c < 64) := by rintro ⟨-, -, hh⟩; exact h hh
    simp [Grid.flip, h]

/-- Two grids with the same pixels are equal. -/
theorem Grid.ext_pixel {g g' : Grid} (h : ∀ r c, r < 32 → c < 64 → Grid.pixel g r c = Grid.pixel g' r c) : g = g' := by
  refine Vector.ext fun r hr => Vector.ext fun c hc => ?_
  simpa [Grid.pixel, hr, hc] using h r c hr hc

/-- Whether a sprite row at screen row `r`, column `cx` has a 1 bit among its first `n` on pixel (r', c'). -/
def rowCovers (r cx : Nat) (row : Byte) (n r' c' : Nat) : Bool :=
  decide (r' = r ∧ r < 32 ∧ c' < 64 ∧ cx ≤ c' ∧ c' < cx + n) && spriteBit row (c' - cx)

/-- The first `n` bits of a row drawn. -/
theorem Canvas.foldl_plot (k : Canvas) (r cx : Nat) (row : Byte) (n : Nat) :
    let k' := (List.range n).foldl (fun k b => if spriteBit row b then Canvas.plot k r (cx + b) else k) k
    (∀ r' c', Grid.pixel k'.grid r' c' = (Grid.pixel k.grid r' c' ^^ rowCovers r cx row n r' c')) ∧
    (k'.collided = true ↔ k.collided = true ∨ ∃ r' c', Grid.pixel k.grid r' c' = true ∧ rowCovers r cx row n r' c' = true) := by
  induction n with
  | zero =>
    have h0 : ∀ r' c', rowCovers r cx row 0 r' c' = false := fun r' c' => by
      simp only [rowCovers, Bool.and_eq_false_iff, decide_eq_false_iff_not]; omega
    simp [h0]
  | succ n ih =>
    simp only [List.range_succ, List.foldl_append, List.foldl_cons, List.foldl_nil]
    simp only at ih
    generalize (List.range n).foldl (fun k b => if spriteBit row b then Canvas.plot k r (cx + b) else k) k = k1 at ih ⊢
    obtain ⟨ihg, ihc⟩ := ih
    have hs : ∀ r' c', rowCovers r cx row (n + 1) r' c' =
        (rowCovers r cx row n r' c' || (decide (r' = r ∧ c' = cx + n ∧ r < 32 ∧ cx + n < 64) && spriteBit row n)) := by
      intro r' c'
      by_cases hc : c' = cx + n
      · subst hc
        simp only [rowCovers, Nat.add_sub_cancel_left]
        cases spriteBit row n <;> simp
      · simp only [rowCovers]
        have : (decide (r' = r ∧ c' = cx + n ∧ r < 32 ∧ cx + n < 64)) = false := by simp [hc]
        rw [this, Bool.false_and, Bool.or_false]
        congr 1
        exact decide_eq_decide.mpr (by omega)
    have hdisj : ∀ r' c', r' = r → c' = cx + n → rowCovers r cx row n r' c' = false := by
      rintro r' c' rfl rfl; simp [rowCovers]
    by_cases hb : spriteBit row n = true
    · simp only [hb, if_true, Canvas.plot, Bool.and_true] at hs ⊢
      refine ⟨fun r' c' => ?_, ?_⟩
      · rw [Grid.pixel_flip, ihg, hs]
        by_cases hh : r' = r ∧ c' = cx + n
        · rw [hdisj r' c' hh.1 hh.2]; simp
        · have : ¬(r' = r ∧ c' = cx + n ∧ r < 32 ∧ cx + n < 64) := fun h => hh ⟨h.1, h.2.1⟩
          simp [this]
      · simp only [Bool.or_eq_true, ihc, ihg, hdisj r (cx + n) rfl rfl, Bool.xor_false, hs]
        constructor
        · rintro ((h | ⟨r', c', h1, h2⟩) | h)
          · exact .inl h
          · exact .inr ⟨r', c', h1, .inl h2⟩
          · refine .inr ⟨r, cx + n, h, .inr ?_⟩
            by_contra hng
            have : ¬(r < 32 ∧ cx + n < 64) := by simpa using hng
            simp [Grid.pixel_off_grid _ _ _ this] at h
        · rintro (h | ⟨r', c', h1, h2 | h2⟩)
          · exact .inl (.inl h)
          · exact .inl (.inr ⟨r', c', h1, h2⟩)
          · obtain ⟨rfl, rfl, -⟩ := of_decide_eq_true h2
            exact .inr h1
    · simp only [Bool.not_eq_true] at hb
      simp only [hb, Bool.and_false, Bool.or_false] at hs
      simp [hb, hs, ihg, ihc]

/-- Whether sprite rows placed from screen row `cy` at column `cx` have a 1 bit on pixel (r, c). -/
def rowsCover (cy cx : Nat) (rows : List Byte) (r c : Nat) : Bool :=
  decide (r < 32 ∧ c < 64 ∧ cy ≤ r ∧ r < cy + rows.length ∧ cx ≤ c ∧ c < cx + 8) &&
    spriteBit (rows.getD (r - cy) 0) (c - cx)

/-- A whole sprite: every covered pixel is inverted, and a collision is recorded exactly when a covered pixel was on. -/
theorem Canvas.drawRows_spec (k : Canvas) (cy cx : Nat) (rows : List Byte) :
    (∀ r c, Grid.pixel (Canvas.drawRows k cy cx rows).grid r c = (Grid.pixel k.grid r c ^^ rowsCover cy cx rows r c)) ∧
    ((Canvas.drawRows k cy cx rows).collided = true ↔
      k.collided = true ∨ ∃ r c, Grid.pixel k.grid r c = true ∧ rowsCover cy cx rows r c = true) := by
  induction rows generalizing k cy with
  | nil =>
    have h0 : ∀ r c, rowsCover cy cx [] r c = false := fun r c => by
      simp only [rowsCover, Bool.and_eq_false_iff, decide_eq_false_iff_not, List.length_nil]; omega
    simp [Canvas.drawRows, h0]
  | cons row rows ih =>
    simp only [Canvas.drawRows]
    obtain ⟨ihg, ihc⟩ := ih (Canvas.drawRow k cy cx row) (cy + 1)
    obtain ⟨hg, hc⟩ := Canvas.foldl_plot k cy cx row 8
    change (∀ r' c', Grid.pixel (Canvas.drawRow k cy cx row).grid r' c' = _) at hg
    change ((Canvas.drawRow k cy cx row).collided = true ↔ _) at hc
    have hs : ∀ r c, rowsCover cy cx (row :: rows) r c = (rowCovers cy cx row 8 r c || rowsCover (cy + 1) cx rows r c) := by
      intro r c
      by_cases hr : r = cy
      · subst hr
        simp only [rowsCover, rowCovers, Nat.sub_self, List.getD_cons_zero]
        have : decide (r < 32 ∧ c < 64 ∧ r + 1 ≤ r ∧ r < r + 1 + rows.length ∧ cx ≤ c ∧ c < cx + 8) = false := by simp
        rw [this, Bool.false_and, Bool.or_false]
        congr 1
        exact decide_eq_decide.mpr (by simp only [List.length_cons, true_and]; omega)
      · have h1 : rowCovers cy cx row 8 r c = false := by simp [rowCovers, hr]
        rw [h1, Bool.false_or]
        by_cases hlt : cy < r
        · simp only [rowsCover]
          rw [show r - cy = (r - (cy + 1)) + 1 by omega, List.getD_cons_succ]
          congr 1
          exact decide_eq_decide.mpr (by simp only [List.length_cons]; omega)
        · have e1 : ¬(r < 32 ∧ c < 64 ∧ cy ≤ r ∧ r < cy + (row :: rows).length ∧ cx ≤ c ∧ c < cx + 8) := by omega
          have e2 : ¬(r < 32 ∧ c < 64 ∧ cy + 1 ≤ r ∧ r < cy + 1 + rows.length ∧ cx ≤ c ∧ c < cx + 8) := by omega
          simp only [rowsCover, decide_eq_false e1, decide_eq_false e2, Bool.false_and]
    have hdisj : ∀ r c, rowsCover (cy + 1) cx rows r c = true → rowCovers cy cx row 8 r c = false := by
      intro r c h
      have : r ≠ cy := by
        simp only [rowsCover, Bool.and_eq_true, decide_eq_true_eq] at h; omega
      simp [rowCovers, this]
    refine ⟨fun r c => ?_, ?_⟩
    · rw [ihg, hg, hs]
      cases h2 : rowsCover (cy + 1) cx rows r c
      · simp
      · simp [hdisj r c h2]
    · rw [ihc, hc]
      simp only [hg, hs, Bool.or_eq_true]
      constructor
      · rintro ((h | ⟨r, c, h1, h2⟩) | ⟨r, c, h1, h2⟩)
        · exact .inl h
        · exact .inr ⟨r, c, h1, .inl h2⟩
        · rw [hdisj r c h2, Bool.xor_false] at h1
          exact .inr ⟨r, c, h1, .inr h2⟩
      · rintro (h | ⟨r, c, h1, h2 | h2⟩)
        · exact .inl (.inl h)
        · exact .inl (.inr ⟨r, c, h1, h2⟩)
        · refine .inr ⟨r, c, ?_, h2⟩
          rw [hdisj r c h2, Bool.xor_false]; exact h1

/-- The sprite rows that `DXYN` reads cover exactly the pixels `spriteCovers` names. -/
theorem rowsCover_loadAtIndex (s : State) (x y : RegIdx) (n r c : Nat) :
    rowsCover (s.reg y).toNat (s.reg x).toNat (s.loadAtIndex n) r c = spriteCovers s x y n r c := by
  simp only [rowsCover, spriteCovers, spriteBox, spriteBit, State.loadAtIndex, Memory.length_readFrom, Memory.getD_readFrom,
    State.byteAt]
  by_cases h : (s.reg y).toNat ≤ r ∧ r < (s.reg y).toNat + n
  · rw [if_pos (by omega)]
    congr 1
    rw [← Bool.decide_and]
    exact decide_eq_decide.mpr (by omega)
  · have e1 : ¬(r < 32 ∧ c < 64 ∧ (s.reg y).toNat ≤ r ∧ r < (s.reg y).toNat + n ∧ (s.reg x).toNat ≤ c ∧ c < (s.reg x).toNat + 8) := by
      omega
    have e2 : ¬((s.reg y).toNat ≤ r ∧ r < (s.reg y).toNat + n ∧ (s.reg x).toNat ≤ c ∧ c < (s.reg x).toNat + 8) := by omega
    simp only [decide_eq_false e1, decide_eq_false e2, Bool.false_and, Bool.and_false]

end Sys2Proof.Machine
end

