-- ==== Sys2Proof/Laws/PerInstr.lean ====
section
/-! SUPPORT. The per-instruction family `GroupNibble`: the operation group of an instruction's word is the group of its
pattern in the opcode map (spec/30_encoding.md R95). -/

namespace Sys2Proof.Laws.GroupNibble

/-- The top nibble of each pattern of R95. -/
def group : Instr → Nat
  | .cls => 0x0
  | .ret => 0x0
  | .sys _ => 0x0
  | .jp _ => 0x1
  | .call _ => 0x2
  | .seImm _ _ => 0x3
  | .sneImm _ _ => 0x4
  | .seReg _ _ => 0x5
  | .ldImm _ _ => 0x6
  | .addImm _ _ => 0x7
  | .ldReg _ _ => 0x8
  | .orReg _ _ => 0x8
  | .andReg _ _ => 0x8
  | .xorReg _ _ => 0x8
  | .addReg _ _ => 0x8
  | .subReg _ _ => 0x8
  | .shr _ _ => 0x8
  | .subn _ _ => 0x8
  | .shl _ _ => 0x8
  | .sneReg _ _ => 0x9
  | .ldI _ => 0xA
  | .jpV0 _ => 0xB
  | .rnd _ _ => 0xC
  | .drw _ _ _ => 0xD
  | .skp _ => 0xE
  | .sknp _ => 0xE
  | .ldVxDT _ => 0xF
  | .ldVxK _ => 0xF
  | .ldDTVx _ => 0xF
  | .ldSTVx _ => 0xF
  | .addI _ => 0xF
  | .ldF _ => 0xF
  | .ldB _ => 0xF
  | .store _ => 0xF
  | .load _ => 0xF

/-- The word of the instruction carries its group in bits 15 to 12. -/
def Statement (i : Instr) : Prop := Word.fieldG (encode i) = group i

theorem cls : Statement .cls := rfl
theorem ret : Statement .ret := rfl
theorem sys (nnn : Addr) : Statement (.sys nnn) := Word.fieldG_encodeNNN (by decide) nnn
theorem jp (nnn : Addr) : Statement (.jp nnn) := Word.fieldG_encodeNNN (by decide) nnn
theorem call (nnn : Addr) : Statement (.call nnn) := Word.fieldG_encodeNNN (by decide) nnn
theorem seImm (x : RegIdx) (nn : Byte) : Statement (.seImm x nn) := Word.fieldG_encodeXNN (by decide) nn.isLt x
theorem sneImm (x : RegIdx) (nn : Byte) : Statement (.sneImm x nn) := Word.fieldG_encodeXNN (by decide) nn.isLt x
theorem seReg (x y : RegIdx) : Statement (.seReg x y) := Word.fieldG_encodeXYN (by decide) (by decide) x y
theorem ldImm (x : RegIdx) (nn : Byte) : Statement (.ldImm x nn) := Word.fieldG_encodeXNN (by decide) nn.isLt x
theorem addImm (x : RegIdx) (nn : Byte) : Statement (.addImm x nn) := Word.fieldG_encodeXNN (by decide) nn.isLt x
theorem ldReg (x y : RegIdx) : Statement (.ldReg x y) := Word.fieldG_encodeXYN (by decide) (by decide) x y
theorem orReg (x y : RegIdx) : Statement (.orReg x y) := Word.fieldG_encodeXYN (by decide) (by decide) x y
theorem andReg (x y : RegIdx) : Statement (.andReg x y) := Word.fieldG_encodeXYN (by decide) (by decide) x y
theorem xorReg (x y : RegIdx) : Statement (.xorReg x y) := Word.fieldG_encodeXYN (by decide) (by decide) x y
theorem addReg (x y : RegIdx) : Statement (.addReg x y) := Word.fieldG_encodeXYN (by decide) (by decide) x y
theorem subReg (x y : RegIdx) : Statement (.subReg x y) := Word.fieldG_encodeXYN (by decide) (by decide) x y
theorem shr (x y : RegIdx) : Statement (.shr x y) := Word.fieldG_encodeXYN (by decide) (by decide) x y
theorem subn (x y : RegIdx) : Statement (.subn x y) := Word.fieldG_encodeXYN (by decide) (by decide) x y
theorem shl (x y : RegIdx) : Statement (.shl x y) := Word.fieldG_encodeXYN (by decide) (by decide) x y
theorem sneReg (x y : RegIdx) : Statement (.sneReg x y) := Word.fieldG_encodeXYN (by decide) (by decide) x y
theorem ldI (nnn : Addr) : Statement (.ldI nnn) := Word.fieldG_encodeNNN (by decide) nnn
theorem jpV0 (nnn : Addr) : Statement (.jpV0 nnn) := Word.fieldG_encodeNNN (by decide) nnn
theorem rnd (x : RegIdx) (nn : Byte) : Statement (.rnd x nn) := Word.fieldG_encodeXNN (by decide) nn.isLt x
theorem drw (x y : RegIdx) (n : Fin 16) : Statement (.drw x y n) := Word.fieldG_encodeXYN (by decide) n.isLt x y
theorem skp (x : RegIdx) : Statement (.skp x) := Word.fieldG_encodeXNN (by decide) (by decide) x
theorem sknp (x : RegIdx) : Statement (.sknp x) := Word.fieldG_encodeXNN (by decide) (by decide) x
theorem ldVxDT (x : RegIdx) : Statement (.ldVxDT x) := Word.fieldG_encodeXNN (by decide) (by decide) x
theorem ldVxK (x : RegIdx) : Statement (.ldVxK x) := Word.fieldG_encodeXNN (by decide) (by decide) x
theorem ldDTVx (x : RegIdx) : Statement (.ldDTVx x) := Word.fieldG_encodeXNN (by decide) (by decide) x
theorem ldSTVx (x : RegIdx) : Statement (.ldSTVx x) := Word.fieldG_encodeXNN (by decide) (by decide) x
theorem addI (x : RegIdx) : Statement (.addI x) := Word.fieldG_encodeXNN (by decide) (by decide) x
theorem ldF (x : RegIdx) : Statement (.ldF x) := Word.fieldG_encodeXNN (by decide) (by decide) x
theorem ldB (x : RegIdx) : Statement (.ldB x) := Word.fieldG_encodeXNN (by decide) (by decide) x
theorem store (x : RegIdx) : Statement (.store x) := Word.fieldG_encodeXNN (by decide) (by decide) x
theorem load (x : RegIdx) : Statement (.load x) := Word.fieldG_encodeXNN (by decide) (by decide) x

end Sys2Proof.Laws.GroupNibble
end

