-- ==== Sys2Proof/Laws/Registers.lean ====
section
/-! SUPPORT. The laws of the register file, the flag-producing writes, the call stack and the keypad operand. -/

namespace Sys2Proof.Machine

/-! ## Registers -/

theorem State.reg_setReg (s : State) (x y : RegIdx) (b : Byte) :
    (s.setReg x b).reg y = if y = x then b else s.reg y := by
  simp only [State.reg, State.setReg, Fin.getElem_fin, Vector.getElem_set, Fin.ext_iff]
  by_cases h : x.val = y.val <;> simp [h, eq_comm]

@[simp] theorem State.reg_setReg_self (s : State) (x : RegIdx) (b : Byte) : (s.setReg x b).reg x = b := by
  simp [State.reg_setReg]

theorem State.reg_setReg_of_ne (s : State) {x y : RegIdx} (b : Byte) (h : y ≠ x) :
    (s.setReg x b).reg y = s.reg y := by simp [State.reg_setReg, h]

theorem State.reg_setFirstRegs (s : State) (bs : List Byte) (y : RegIdx) :
    (s.setFirstRegs bs).reg y = bs.getD y.val (s.reg y) := by
  simp [State.reg, State.setFirstRegs]

@[simp] theorem State.reg_setPc (s : State) (w : Word) (y : RegIdx) : (s.setPc w).reg y = s.reg y := rfl
@[simp] theorem State.reg_advance (s : State) (y : RegIdx) : s.advance.reg y = s.reg y := rfl
@[simp] theorem State.reg_skipIf (s : State) (c : Bool) (y : RegIdx) : (s.skipIf c).reg y = s.reg y := rfl
@[simp] theorem State.reg_setIndex (s : State) (w : Word) (y : RegIdx) : (s.setIndex w).reg y = s.reg y := rfl
@[simp] theorem State.reg_setDT (s : State) (b : Byte) (y : RegIdx) : (s.setDT b).reg y = s.reg y := rfl
@[simp] theorem State.reg_setST (s : State) (b : Byte) (y : RegIdx) : (s.setST b).reg y = s.reg y := rfl
@[simp] theorem State.reg_storeAtIndex (s : State) (vs : List Byte) (y : RegIdx) :
    (s.storeAtIndex vs).reg y = s.reg y := rfl
@[simp] theorem State.reg_takeFault (s : State) (f : Fault) (y : RegIdx) : (s.takeFault f).reg y = s.reg y := rfl
@[simp] theorem State.reg_retire (s : State) (y : RegIdx) : s.retire.reg y = s.reg y := rfl

@[simp] theorem State.length_firstRegs (s : State) (x : RegIdx) : (s.firstRegs x).length = x.val + 1 := by
  simp [State.firstRegs]

theorem State.getElem_firstRegs (s : State) (x : RegIdx) (j : Nat) (h : j ≤ x.val) :
    (s.firstRegs x)[j]'(by simp; omega) = s.reg ⟨j, by omega⟩ := by
  simp [State.firstRegs, State.reg]

/-! ## The flag-producing writes (R103) -/

/-- `Vx` after a flag-producing instruction: the result, unless `x = 15` and the flag is written last. -/
theorem State.reg_writeFlagged_dest (s : State) (x : RegIdx) (r : AluResult) :
    (s.writeFlagged x r).reg x = if x = regVF ∧ s.params.flagLast = true then flagByte r.flag else r.value := by
  unfold State.writeFlagged
  by_cases hp : s.params.flagLast = true <;> by_cases hx : x = regVF <;> simp [hp, hx, State.reg_setReg]

/-- `VF` after a flag-producing instruction whose destination is another register: the flag. -/
theorem State.reg_writeFlagged_flag (s : State) (x : RegIdx) (r : AluResult) (h : x ≠ regVF) :
    (s.writeFlagged x r).reg regVF = flagByte r.flag := by
  unfold State.writeFlagged
  by_cases hp : s.params.flagLast = true <;> simp [hp, State.reg_setReg, Ne.symm h]

/-- The other registers are not written. -/
theorem State.reg_writeFlagged_of_ne (s : State) (x y : RegIdx) (r : AluResult) (hx : y ≠ x) (hf : y ≠ regVF) :
    (s.writeFlagged x r).reg y = s.reg y := by
  unfold State.writeFlagged
  split <;> simp [State.reg_setReg, hx, hf]

/-- A flag-producing write changes only the register file. -/
theorem State.writeFlagged_eq (s : State) (x : RegIdx) (r : AluResult) :
    ∃ v, s.writeFlagged x r = { s with v := v } := by
  unfold State.writeFlagged
  split
  · exact ⟨_, rfl⟩
  · exact ⟨_, rfl⟩

/-! ## The call stack (R28) -/

/-- A push below 16 entries. -/
theorem State.push_of_lt (s : State) (w : Word) (h : s.sp.val < 16) :
    s.push w = some { s with stack := s.stack.set s.sp.val w h, sp := ⟨s.sp.val + 1, by omega⟩ } := by
  simp [State.push, h]

/-- A push on a full stack. -/
theorem State.push_of_full (s : State) (w : Word) (h : s.sp.val = 16) : s.push w = none := by
  simp [State.push, h]

/-- A pop of a stack that is not empty. -/
theorem State.pop_of_pos (s : State) (h : s.sp.val ≠ 0) :
    s.pop = some (s.stack[s.sp.val - 1]'(by omega), { s with sp := ⟨s.sp.val - 1, by omega⟩ }) := by
  simp [State.pop, h]

/-- A pop of an empty stack. -/
theorem State.pop_of_empty (s : State) (h : s.sp.val = 0) : s.pop = none := by
  simp [State.pop, h]

/-! ## The keypad (R262, R266) -/

theorem State.keyOperand_of_lt (s : State) (x : RegIdx) (h : (s.reg x).toNat < 16) :
    s.keyOperand x = s.key[(s.reg x).toNat] := by simp [State.keyOperand, h]

theorem State.keyOperand_of_ge (s : State) (x : RegIdx) (h : 16 ≤ (s.reg x).toNat) : s.keyOperand x = false := by
  simp [State.keyOperand, Nat.not_lt.mpr h]

/-- No key is found exactly when none is pressed. -/
theorem State.lowestKey_eq_none (s : State) : s.lowestKey = none ↔ ∀ k : Fin 16, s.key[k] = false := by
  simp [State.lowestKey]

/-- The key found is pressed and no lower one is. -/
theorem State.lowestKey_eq_some (s : State) (k : Fin 16) :
    s.lowestKey = some k ↔ s.key[k] = true ∧ ∀ j : Fin 16, j < k → s.key[j] = false := by
  constructor
  · intro h
    refine ⟨by simpa using List.find?_some h, fun j hj => ?_⟩
    obtain ⟨-, as, bs, hl, hall⟩ := List.find?_eq_some_iff_append.mp h
    have hs : (List.finRange 16).Pairwise (· < ·) := List.pairwise_lt_finRange 16
    have hmem : j ∈ as := by
      have : j ∈ List.finRange 16 := List.mem_finRange j
      rw [hl] at this hs
      rcases List.mem_append.mp this with h | h
      · exact h
      · have hkb := (List.pairwise_append.mp hs).2.1
        rcases List.mem_cons.mp h with rfl | h
        · exact absurd hj (lt_irrefl _)
        · exact absurd ((List.pairwise_cons.mp hkb).1 j h) (not_lt.mpr hj.le)
    simpa using hall j hmem
  · rintro ⟨hk, hlow⟩
    cases h : s.lowestKey with
    | none => simp [(State.lowestKey_eq_none s).mp h k] at hk
    | some j =>
      obtain ⟨hj, -⟩ : s.key[j] = true ∧ True := ⟨by simpa using List.find?_some h, trivial⟩
      rcases lt_trichotomy j k with hlt | rfl | hlt
      · simp [hlow j hlt] at hj
      · rfl
      · obtain ⟨-, as, bs, hl, hall⟩ := List.find?_eq_some_iff_append.mp h
        have hs : (List.finRange 16).Pairwise (· < ·) := List.pairwise_lt_finRange 16
        have : k ∈ List.finRange 16 := List.mem_finRange k
        rw [hl] at this hs
        rcases List.mem_append.mp this with hm | hm
        · have := hall k hm; simp_all
        · have hkb := (List.pairwise_append.mp hs).2.1
          rcases List.mem_cons.mp hm with rfl | hm
          · exact absurd hlt (lt_irrefl _)
          · exact absurd ((List.pairwise_cons.mp hkb).1 k hm) (not_lt.mpr hlt.le)

end Sys2Proof.Machine
end

