-- ==== Sys2Proof/Laws/Step.lean ====
section
/-! SUPPORT. What STEP can do, said once, and the fetch. -/

namespace Sys2Proof.Machine

theorem closeStep_next (s : State) : closeStep (.next s) = .next (if s.halted then s else s.retire) := rfl

/-- STEP on a halted machine. -/
theorem step_of_halted {s : State} (h : s.halted = true) : step s = .refused .alreadyHalted := by
  simp [step, h]

/-- STEP with `pc` out of range. -/
theorem step_of_pc_out_of_range {s : State} (h : s.halted = false) (hp : 4094 < s.pc.toNat) :
    step s = .next (s.takeFault (.pcOutOfRange s.pc)) := by
  simp [step, h, Config.lastFetch, hp]

/-- STEP on an invalid word. -/
theorem step_of_invalid {s : State} {e : DecodeError} (h : s.halted = false) (hp : s.pc.toNat ≤ 4094)
    (hd : decode s.fetch = .error e) : step s = .next (s.takeFault (.invalidInstruction s.fetch s.pc)) := by
  simp [step, h, Config.lastFetch, Nat.not_lt.mpr hp, hd]

/-- STEP on a valid word. -/
theorem step_of_decoded {s : State} {i : Instr} (h : s.halted = false) (hp : s.pc.toNat ≤ 4094)
    (hd : decode s.fetch = .ok i) : step s = closeStep (exec i s) := by
  simp [step, h, Config.lastFetch, Nat.not_lt.mpr hp, hd]

/-- Everything a STEP that answers a next state can have done. -/
theorem step_cases {s t : State} (h : step s = .next t) :
    s.halted = false ∧
      ((4094 < s.pc.toNat ∧ t = s.takeFault (.pcOutOfRange s.pc)) ∨
       (s.pc.toNat ≤ 4094 ∧ (∃ e, decode s.fetch = .error e) ∧ t = s.takeFault (.invalidInstruction s.fetch s.pc)) ∨
       (s.pc.toNat ≤ 4094 ∧ ∃ i u, decode s.fetch = .ok i ∧ exec i s = .next u ∧
          t = if u.halted then u else u.retire)) := by
  cases hh : s.halted with
  | true => simp [step_of_halted hh] at h
  | false =>
    refine ⟨rfl, ?_⟩
    by_cases hp : 4094 < s.pc.toNat
    · rw [step_of_pc_out_of_range hh hp] at h
      exact .inl ⟨hp, by simpa using h.symm⟩
    · have hp := Nat.not_lt.mp hp
      cases hd : decode s.fetch with
      | error e =>
        rw [step_of_invalid hh hp hd] at h
        exact .inr (.inl ⟨hp, ⟨e, rfl⟩, by simpa using h.symm⟩)
      | ok i =>
        rw [step_of_decoded hh hp hd] at h
        refine .inr (.inr ⟨hp, i, ?_⟩)
        cases hx : exec i s with
        | next u => exact ⟨u, rfl, rfl, by simpa [hx, closeStep] using h.symm⟩
        | fault f => simp [hx, closeStep] at h
        | refused r => simp [hx, closeStep] at h

/-- The word stored by `withFetchWord` is the word fetched. -/
theorem State.fetch_withFetchWord {s : State} (h : Memory.wf s.mem) (w : Nat) :
    (s.withFetchWord 16 w).fetch = BitVec.ofNat 16 w := by
  have hm := Nat.mod_lt w (show 0 < 65536 by decide)
  have h0 := Memory.read_writeFrom h s.pc.toNat 0
    [Word.hiByte (BitVec.ofNat 16 (w % 2 ^ 16)), Word.loByte (BitVec.ofNat 16 (w % 2 ^ 16))] (by simp [Config.memSize]) 0 (by simp)
  have h1 := Memory.read_writeFrom h s.pc.toNat 0
    [Word.hiByte (BitVec.ofNat 16 (w % 2 ^ 16)), Word.loByte (BitVec.ofNat 16 (w % 2 ^ 16))] (by simp [Config.memSize]) 1 (by simp)
  simp only [Nat.add_zero] at h0 h1
  simp only [State.fetch, State.byteAt, State.withFetchWord, h0, h1, List.getElem_cons_zero, List.getElem_cons_succ,
    Word.ofBytes_hi_lo]
  apply BitVec.eq_of_toNat_eq
  simp

end Sys2Proof.Machine
end

