-- ==== Sys2Proof/Tests/Slice0.lean ====
section
/-! SUPPORT. The model's own tests: ill-formed terms, one written-out word per constructor, one-step vectors of
spec/95_test_vectors.md, what the host asks of the fetch, and a witness for every statement with hypotheses. Expected
values come from the spec's examples and vectors, named beside each test, or are worked out from the rule named. -/

namespace Sys2Proof.Tests

open Sys2Proof Sys2Proof.Machine

/-! ## WellFormed: the terms it refuses and their neighbours -/

theorem test_wellformed_refuses_sys_0E0 : (Instr.sys 0x0E0).wellFormed = false := by decide
theorem test_wellformed_refuses_sys_0EE : (Instr.sys 0x0EE).wellFormed = false := by decide
theorem test_wellformed_takes_the_neighbours :
    (Instr.sys 0x0DF).wellFormed = true ∧ (Instr.sys 0x0EF).wellFormed = true ∧ (Instr.sys 0x1E0).wellFormed = true := by
  decide

/-! ## Decode: words written out from the rows of R95, the examples of the rules and vectors E, C, A, M, D, K -/

theorem test_decode_cls : decode 0x00E0 = .ok .cls := by decide
theorem test_decode_ret : decode 0x00EE = .ok .ret := by decide
theorem test_decode_sys : decode 0x0123 = .ok (.sys 0x123) := by decide
theorem test_decode_sys_whole_word : decode 0x01E0 = .ok (.sys 0x1E0) := by decide
theorem test_decode_jp : decode 0x1234 = .ok (.jp 0x234) := by decide
theorem test_decode_call : decode 0x2210 = .ok (.call 0x210) := by decide
theorem test_decode_seImm : decode 0x3307 = .ok (.seImm 3 0x07) := by decide
theorem test_decode_sneImm : decode 0x4308 = .ok (.sneImm 3 0x08) := by decide
theorem test_decode_seReg : decode 0x5120 = .ok (.seReg 1 2) := by decide
theorem test_decode_ldImm : decode 0x6A42 = .ok (.ldImm 0xA 0x42) := by decide
theorem test_decode_addImm : decode 0x7120 = .ok (.addImm 1 0x20) := by decide
theorem test_decode_ldReg : decode 0x8120 = .ok (.ldReg 1 2) := by decide
theorem test_decode_orReg : decode 0x8121 = .ok (.orReg 1 2) := by decide
theorem test_decode_andReg : decode 0x8122 = .ok (.andReg 1 2) := by decide
theorem test_decode_xorReg : decode 0x8123 = .ok (.xorReg 1 2) := by decide
theorem test_decode_addReg : decode 0x8124 = .ok (.addReg 1 2) := by decide
theorem test_decode_subReg : decode 0x8125 = .ok (.subReg 1 2) := by decide
theorem test_decode_shr : decode 0x8126 = .ok (.shr 1 2) := by decide
theorem test_decode_subn : decode 0x8127 = .ok (.subn 1 2) := by decide
theorem test_decode_shl : decode 0x812E = .ok (.shl 1 2) := by decide
theorem test_decode_sneReg : decode 0x9120 = .ok (.sneReg 1 2) := by decide
theorem test_decode_ldI : decode 0xA300 = .ok (.ldI 0x300) := by decide
theorem test_decode_jpV0 : decode 0xB300 = .ok (.jpV0 0x300) := by decide
theorem test_decode_rnd : decode 0xC30F = .ok (.rnd 3 0x0F) := by decide
theorem test_decode_drw : decode 0xD125 = .ok (.drw 1 2 5) := by decide
theorem test_decode_skp : decode 0xE49E = .ok (.skp 4) := by decide
theorem test_decode_sknp : decode 0xE4A1 = .ok (.sknp 4) := by decide
theorem test_decode_ldVxDT : decode 0xF307 = .ok (.ldVxDT 3) := by decide
theorem test_decode_ldVxK : decode 0xF50A = .ok (.ldVxK 5) := by decide
theorem test_decode_ldDTVx : decode 0xF015 = .ok (.ldDTVx 0) := by decide
theorem test_decode_ldSTVx : decode 0xF118 = .ok (.ldSTVx 1) := by decide
theorem test_decode_addI : decode 0xF21E = .ok (.addI 2) := by decide
theorem test_decode_ldF : decode 0xF029 = .ok (.ldF 0) := by decide
theorem test_decode_ldB : decode 0xF533 = .ok (.ldB 5) := by decide
theorem test_decode_store : decode 0xF155 = .ok (.store 1) := by decide
theorem test_decode_load : decode 0xF465 = .ok (.load 4) := by decide

/-- The fields of 0xF123 and 0x8FE4, nibble by nibble (R92). -/
theorem test_fields :
    Word.fieldG 0xF123 = 0xF ∧ Word.fieldX 0x8FE4 = 0xF ∧ Word.fieldY 0x8FE4 = 0xE ∧ Word.fieldN 0x8FE4 = 0x4 ∧
    Word.fieldNN 0xF123 = 0x23 ∧ Word.fieldNNN 0xF123 = 0x123 := by decide

/-- Vectors E-4, E-6, E-7, E-8, E-9, E-10: invalid words, each named by its group (R96). -/
theorem test_decode_refuses_invalid_words :
    decode 0x5121 = .error .invalidGroup5 ∧ decode 0x8128 = .error .invalidGroup8 ∧
    decode 0x800F = .error .invalidGroup8 ∧ decode 0x9121 = .error .invalidGroup9 ∧
    decode 0xE0A2 = .error .invalidGroupE ∧ decode 0xF0FF = .error .invalidGroupF ∧
    decode 0xFFFF = .error .invalidGroupF := by decide

/-- Two bytes, most significant first, are consumed; one byte is too few (R66, R90). -/
theorem test_decode_bytes :
    decodeBytes [0xA3, 0x05, 0x77] = .ok (.ldI 0x305, [0x77]) ∧ decodeBytes [0xA3] = .error .truncated := by decide

/-- The table's numbering of bits: one 16-bit word. -/
theorem test_decode_table_word :
    decodeTableWord 16 0xF065 = some (.load 0) ∧ decodeTableWord 16 0x00EE = some .ret ∧
    decodeTableWord 16 0x5001 = none := by decide

/-! ## One step -/

/-- The machine right after reset with a word placed at `pc` (conventions of 95_test_vectors.md). -/
def withWord (w : Nat) : State := State.reset.withFetchWord 16 w

/-- STEP answers a next state and it passes the check. -/
def stepGives (s : State) (check : State → Bool) : Bool :=
  match step s with
  | .next t => check t
  | .fault _ => false
  | .refused _ => false

/-- The pixels of a grid that are on, row-major, as (row, column). -/
def pixelsOn (g : Grid) : List (Nat × Nat) :=
  (List.range 32).flatMap fun r => ((List.range 64).filter fun c => Grid.pixel g r c).map fun c => (r, c)

/-- D-1: the clear turns pixels off and keeps VF. -/
theorem test_cls : stepGives (((withWord 0x00E0).setReg 15 1) |> fun s => { s with display := Grid.flip s.display 31 63 })
    (fun t => !Grid.pixel t.display 31 63 && t.reg 15 == 1 && t.pc == 0x202) = true := by decide

/-- C-7: return to the pushed address, the entry not cleared. -/
theorem test_ret : stepGives { withWord 0x00EE with sp := 1, stack := State.reset.stack.set 0 0x206 }
    (fun t => t.pc == 0x206 && t.sp == 0 && t.stack[0] == 0x206) = true := by decide

/-- C-8: return with an empty stack. -/
theorem test_ret_underflow : stepGives (withWord 0x00EE)
    (fun t => t.halted && t.lastOutcome == some (.fault (.stackUnderflow 0x200 0x00EE)) && t.pc == 0x200) = true := by decide

/-- E-1, E-2: no-ops of group 0. -/
theorem test_sys : stepGives (withWord 0x0123) (fun t => t.pc == 0x202 && !t.halted) = true := by decide
theorem test_sys_does_not_clear :
    stepGives { withWord 0x01E0 with display := Grid.flip State.reset.display 0 0 }
      (fun t => t.pc == 0x202 && Grid.pixel t.display 0 0) = true := by decide

/-- C-2: a jump to 0xFFF is no fault yet. -/
theorem test_jp : stepGives (withWord 0x1FFF) (fun t => t.pc == 0xFFF && !t.halted) = true := by decide

/-- C-4 with the word at 0x200: the return address is `pc + 2`. -/
theorem test_call : stepGives (withWord 0x2210)
    (fun t => t.stack[0] == 0x202 && t.sp == 1 && t.pc == 0x210) = true := by decide

/-- C-6 with the word at 0x200: the 17th nested call. -/
theorem test_call_overflow : stepGives { withWord 0x2300 with sp := 16 }
    (fun t => t.halted && t.lastOutcome == some (.fault (.stackOverflow 0x200 0x2300)) && t.sp == 16 && t.pc == 0x200)
    = true := by decide

/-- C-9, C-10. -/
theorem test_seImm : stepGives ((withWord 0x3312).setReg 3 0x12) (fun t => t.pc == 0x204) = true := by decide
theorem test_seImm_not : stepGives ((withWord 0x3312).setReg 3 0x13) (fun t => t.pc == 0x202) = true := by decide

/-- The examples of R135. -/
theorem test_sneImm : stepGives ((withWord 0x4308).setReg 3 0x07) (fun t => t.pc == 0x204) = true := by decide
theorem test_sneImm_not : stepGives ((withWord 0x4307).setReg 3 0x07) (fun t => t.pc == 0x202) = true := by decide

/-- The example of R136, and registers that differ. -/
theorem test_seReg : stepGives (((withWord 0x5120).setReg 1 0x10).setReg 2 0x10) (fun t => t.pc == 0x204) = true := by decide
theorem test_seReg_not : stepGives ((withWord 0x5120).setReg 1 0x10) (fun t => t.pc == 0x202) = true := by decide

/-- E-5, and a register against itself (R137). -/
theorem test_sneReg : stepGives ((withWord 0x9120).setReg 1 1) (fun t => t.pc == 0x204) = true := by decide
theorem test_sneReg_not : stepGives ((withWord 0x9110).setReg 1 1) (fun t => t.pc == 0x202) = true := by decide

/-- The example of R138, and the largest target of R99. -/
theorem test_jpV0 : stepGives ((withWord 0xB300).setReg 0 0x04) (fun t => t.pc == 0x304) = true := by decide
theorem test_jpV0_largest : stepGives ((withWord 0xBFFF).setReg 0 0xFF) (fun t => t.pc == 0x10FE) = true := by decide

/-- L1-1. -/
theorem test_ldImm : stepGives (withWord 0x6A7F) (fun t => t.reg 0xA == 0x7F && t.pc == 0x202) = true := by decide

/-- The example of R171: the sum wraps and VF stays. -/
theorem test_addImm : stepGives (((withWord 0x7120).setReg 1 0xF0).setReg 15 9)
    (fun t => t.reg 1 == 0x10 && t.reg 15 == 9) = true := by decide

/-- The example of R172. -/
theorem test_ldReg : stepGives ((withWord 0x8120).setReg 2 0x33) (fun t => t.reg 1 == 0x33 && t.reg 2 == 0x33) = true := by
  decide

/-- The example of R173, with VF kept as A-5 has it. -/
theorem test_orReg : stepGives ((((withWord 0x8121).setReg 1 0x0F).setReg 2 0xF0).setReg 15 9)
    (fun t => t.reg 1 == 0xFF && t.reg 15 == 9) = true := by decide

/-- A-6. -/
theorem test_andReg : stepGives ((((withWord 0x8122).setReg 1 0xF0).setReg 2 0x3C).setReg 15 9)
    (fun t => t.reg 1 == 0x30 && t.reg 15 == 9) = true := by decide

/-- A-7. -/
theorem test_xorReg : stepGives ((((withWord 0x8123).setReg 1 0xFF).setReg 2 0x0F).setReg 15 9)
    (fun t => t.reg 1 == 0xF0 && t.reg 15 == 9) = true := by decide

/-- L1-2; A-12 and its FLAG_LAST form. -/
theorem test_addReg : stepGives (((withWord 0x8124).setReg 1 0xFF).setReg 2 0x01)
    (fun t => t.reg 1 == 0x00 && t.reg 15 == 1 && t.pc == 0x202) = true := by decide
theorem test_addReg_x_is_15 :
    stepGives (((withWord 0x8F14).setReg 1 0x20).setReg 15 0x10) (fun t => t.reg 15 == 0x30) = true ∧
    stepGives { ((withWord 0x8F14).setReg 1 0x20).setReg 15 0x10 with params := ⟨Config.defaultFont, true⟩ }
      (fun t => t.reg 15 == 0) = true := by decide

/-- L1-4 (b); A-17 and its FLAG_LAST form. -/
theorem test_subReg : stepGives (((withWord 0x8125).setReg 1 0x03).setReg 2 0x05)
    (fun t => t.reg 1 == 0xFE && t.reg 15 == 0) = true := by decide
theorem test_subReg_x_is_15 :
    stepGives (((withWord 0x8F15).setReg 1 0x20).setReg 15 0x10) (fun t => t.reg 15 == 0xF0) = true ∧
    stepGives { ((withWord 0x8F15).setReg 1 0x20).setReg 15 0x10 with params := ⟨Config.defaultFont, true⟩ }
      (fun t => t.reg 15 == 0) = true := by decide

/-- A-21: Vy is ignored; A-22. -/
theorem test_shr : stepGives (((withWord 0x8126).setReg 1 0x01).setReg 2 0xFF)
    (fun t => t.reg 1 == 0x00 && t.reg 15 == 1 && t.reg 2 == 0xFF) = true := by decide
theorem test_shr_x_is_15 : stepGives ((withWord 0x8F06).setReg 15 0x05) (fun t => t.reg 15 == 0x02) = true := by decide

/-- A-24, A-27 (the old VF is the operand). -/
theorem test_subn : stepGives (((withWord 0x8127).setReg 1 0x05).setReg 2 0x03)
    (fun t => t.reg 1 == 0xFE && t.reg 15 == 0) = true := by decide
theorem test_subn_y_is_15 : stepGives (((withWord 0x81F7).setReg 1 0x05).setReg 15 0x03)
    (fun t => t.reg 1 == 0xFE && t.reg 15 == 0) = true := by decide

/-- A-30: Vy = VF is ignored; A-31. -/
theorem test_shl : stepGives (((withWord 0x81FE).setReg 1 0x81).setReg 15 0x07)
    (fun t => t.reg 1 == 0x02 && t.reg 15 == 1) = true := by decide
theorem test_shl_x_is_15 : stepGives ((withWord 0x8F0E).setReg 15 0x81) (fun t => t.reg 15 == 0x02) = true := by decide

/-- CXNN completes and takes one draw; its value is free (R181). -/
theorem test_rnd : stepGives (withWord 0xC30F) (fun t => t.pc == 0x202 && t.draws == 1 && !t.halted) = true := by decide

/-- The example of R210. -/
theorem test_ldI : stepGives (withWord 0xA300) (fun t => t.index == 0x300 && t.pc == 0x202) = true := by decide

/-- M-2, M-3. -/
theorem test_addI : stepGives (((withWord 0xF01E).setIndex 0x0FFF).setReg 0 0x02 |>.setReg 15 7)
    (fun t => t.index == 0x1001 && t.reg 15 == 7) = true := by decide
theorem test_addI_wraps : stepGives (((withWord 0xF01E).setIndex 0xFFFF).setReg 0 0xFF) (fun t => t.index == 0x00FE) = true := by
  decide

/-- M-4, M-6. -/
theorem test_ldF : stepGives ((withWord 0xF029).setReg 0 0x0F) (fun t => t.index == 0x04B) = true := by decide
theorem test_ldF_no_mask : stepGives ((withWord 0xF029).setReg 0 0xFF) (fun t => t.index == 0x4FB) = true := by decide

/-- L1-6, M-8. -/
theorem test_ldB : stepGives (((withWord 0xF533).setReg 5 156).setIndex 0x300)
    (fun t => t.byteAt 0x300 == 1 && t.byteAt 0x301 == 5 && t.byteAt 0x302 == 6 && t.index == 0x300) = true := by decide
theorem test_ldB_wraps : stepGives (((withWord 0xF033).setReg 0 255).setIndex 0xFFE)
    (fun t => t.byteAt 0xFFE == 2 && t.byteAt 0xFFF == 5 && t.byteAt 0x000 == 5 && t.byteAt 0x001 == 0x90) = true := by decide

/-- M-10; the last byte stored by x = 15 wraps (R214, as L1-13). -/
theorem test_store : stepGives ((((withWord 0xF155).setReg 0 0x11).setReg 1 0x22).setIndex 0x400 |>.setReg 2 0x33)
    (fun t => t.byteAt 0x400 == 0x11 && t.byteAt 0x401 == 0x22 && t.byteAt 0x402 == 0 && t.index == 0x400) = true := by decide
theorem test_store_wraps : stepGives (((withWord 0xFF55).setReg 15 0xF1).setReg 7 0x71 |>.setIndex 0xFF8)
    (fun t => t.byteAt 0xFFF == 0x71 && t.byteAt 0x007 == 0xF1 && t.byteAt 0x008 == 0x20) = true := by decide

/-- M-12's shape and M-13: glyph 0 of the default font. -/
theorem test_load : stepGives ((withWord 0xF465).setReg 5 0x33)
    (fun t => t.reg 0 == 0xF0 && t.reg 1 == 0x90 && t.reg 3 == 0x90 && t.reg 4 == 0xF0 && t.reg 5 == 0x33 && t.index == 0)
    = true := by decide

/-- D-2: clipped at the right and the bottom. -/
theorem test_drw_clips : stepGives (((withWord 0xD015).setReg 0 62).setReg 1 30)
    (fun t => pixelsOn t.display == [(30, 62), (30, 63), (31, 62)] && t.reg 15 == 0) = true := by decide

/-- D-7 with row (1, 1) on before: the second sprite byte wraps to 0x000, and the lit pixel is turned off. -/
theorem test_drw_collides : stepGives
    { (withWord 0xD002).setIndex 0xFFF with
      mem := Memory.write (withWord 0xD002).mem 0xFFF 0x80, display := Grid.flip State.reset.display 1 1 }
    (fun t => pixelsOn t.display == [(0, 0), (1, 0), (1, 2), (1, 3)] && t.reg 15 == 1) = true := by decide

/-- K-1, K-4. -/
theorem test_skp : stepGives ({ withWord 0xE49E with key := State.reset.key.set 7 true }.setReg 4 7)
    (fun t => t.pc == 0x204) = true := by decide
theorem test_skp_no_such_key : stepGives ({ withWord 0xE09E with key := State.reset.key.set 7 true }.setReg 0 0x17)
    (fun t => t.pc == 0x202) = true := by decide

/-- K-3, K-5. -/
theorem test_sknp : stepGives ((withWord 0xE4A1).setReg 4 7) (fun t => t.pc == 0x204) = true := by decide
theorem test_sknp_no_such_key : stepGives ({ withWord 0xE0A1 with key := State.reset.key.set 7 true }.setReg 0 0x17)
    (fun t => t.pc == 0x204) = true := by decide

/-- K-8. -/
theorem test_ldVxDT : stepGives { withWord 0xF307 with dt := 0x2A } (fun t => t.reg 3 == 0x2A && t.dt == 0x2A) = true := by
  decide

/-- K-6, K-7. -/
theorem test_ldVxK_waits : stepGives (withWord 0xF50A) (fun t => t.pc == 0x200 && t.reg 5 == 0 && !t.halted) = true := by
  decide
theorem test_ldVxK_lowest :
    stepGives ({ withWord 0xF00A with key := (State.reset.key.set 3 true).set 15 true })
      (fun t => t.reg 0 == 3 && t.pc == 0x202) = true := by decide

/-- K-9's start, K-10. -/
theorem test_ldDTVx : stepGives ((withWord 0xF015).setReg 0 60) (fun t => t.dt == 60 && t.st == 0) = true := by decide
theorem test_ldSTVx : stepGives ((withWord 0xF118).setReg 1 5) (fun t => t.st == 5 && t.dt == 0) = true := by decide

/-! ## Faults, refusal and the host's other operations -/

/-- L1-12, P1's last STEP. -/
theorem test_invalid_instruction : stepGives (withWord 0x5001)
    (fun t => t.halted && t.lastOutcome == some (.fault (.invalidInstruction 0x5001 0x200)) && t.pc == 0x200
      && t.executed == 0) = true := by decide

/-- E-11 and E-12: 0xFFE is the last address a fetch may start at. -/
theorem test_last_fetch : stepGives ((State.reset.setPc 0xFFE).withFetchWord 16 0x6012)
    (fun t => t.reg 0 == 0x12 && t.pc == 0x1000 && !t.halted) = true := by decide
theorem test_pc_out_of_range : stepGives (State.reset.setPc 0xFFF)
    (fun t => t.halted && t.lastOutcome == some (.fault (.pcOutOfRange 0xFFF)) && t.pc == 0xFFF) = true := by decide

/-- E-14: an odd `pc` is fetched as is. -/
theorem test_odd_pc : stepGives ((State.reset.setPc 0x201).withFetchWord 16 0x6105)
    (fun t => t.reg 1 == 0x05 && t.pc == 0x203) = true := by decide

/-- E-15, E-16. -/
theorem test_refused_when_halted :
    step { withWord 0x6A7F with halted := true } = .refused .alreadyHalted ∧
    step { State.reset with halted := true, pc := 0x1000 } = .refused .alreadyHalted := ⟨rfl, rfl⟩

/-- The codes of R300. -/
theorem test_fault_codes :
    (Fault.invalidInstruction 0 0).code = 1 ∧ (Fault.stackOverflow 0 0).code = 2 ∧
    (Fault.stackUnderflow 0 0).code = 3 ∧ (Fault.pcOutOfRange 0).code = 4 := by decide

/-- L1-10's third TICK and K-11; K-12. -/
theorem test_tick : ({ State.reset with dt := 1, halted := true }.tick).dt = 0 ∧ State.reset.tick = State.reset := by decide

/-- K-13, K-14. -/
theorem test_set_key :
    (invoke (.setKey 9 true) State.reset).1.key[9] = true ∧
    invoke (.setKey 16 true) State.reset = (State.reset, .refused (.keyIndexOutOfContract 16)) := by decide

/-- R-3: LOAD on a halted machine. -/
theorem test_load_op :
    let t := (invoke (.load [0x12, 0x00]) { State.reset with halted := true, pc := 0x20A }).1
    t.byteAt 0x200 = 0x12 ∧ t.byteAt 0x201 = 0 ∧ t.pc = 0x20A ∧ t.halted = true := by decide

/-- R-1's memory, read through the reset content. -/
theorem test_reset_memory :
    [0, 1, 2, 3, 4, 0x4F, 0x50, 0x200].map State.reset.byteAt = [0xF0, 0x90, 0x90, 0x90, 0xF0, 0x80, 0, 0] := by decide

/-- The list stays canonical: writing the reset content removes the cell, and writing the same byte twice lists it once. -/
theorem test_canonical_memory :
    Memory.write (Memory.write [] 0x300 7) 0x300 0 = [] ∧ Memory.write [] 0x1000 0xF0 = [] ∧
    Memory.write (Memory.write (Memory.write [] 0x301 1) 0x300 7) 0x301 2 = [(0x300, 7), (0x301, 2)] := by decide

/-! ## Witnesses: concrete states and operands that meet the hypotheses of each statement that has any -/

/-- DecodeOfEncodeIsTheInstruction: a well-formed instruction next to each excluded address, with extreme operands. -/
theorem witness_wellformed :
    (Instr.sys 0x0DF).wellFormed = true ∧ (Instr.sys 0xFFF).wellFormed = true ∧ (Instr.drw 15 15 15).wellFormed = true := by
  decide

/-- DecodedWordsEncodeBack, the last word of group F that decodes. -/
theorem witness_decoded_word : decode 0xFF65 = .ok (.load 15) := by decide

/-- DecoderIsTheOpcodeMap: a word in the row of 0NNN and one excluded from it. -/
theorem witness_opcode_row :
    (⟨3, 0x0000, 0xF000, [0x00E0, 0x00EE]⟩ : OpcodeRow) ∈ opcodeTable ∧
    OpcodeRow.covers ⟨3, 0x0000, 0xF000, [0x00E0, 0x00EE]⟩ 0x01E0 = true ∧
    OpcodeRow.covers ⟨3, 0x0000, 0xF000, [0x00E0, 0x00EE]⟩ 0x00E0 = false := by decide

/-- 0x5001 decodes to no instruction: StepRunsTheDecodedInstruction, StepFaultsExactlyForTheFourCauses. -/
theorem witness_invalid_word : ∀ i, decode 0x5001 ≠ .ok i := by
  have h : decode 0x5001 = .error .invalidGroup5 := by decide
  intro i; rw [h]; nofun

/-- StepRunsTheDecodedInstruction: a halted machine; `pc` at 4095, the least address out of range, and at 0xFFFF. -/
theorem witness_step_stops :
    State.halted { State.reset with halted := true } = true ∧
    (State.reset.setPc 4095).halted = false ∧ 4094 < (State.reset.setPc 4095).pc.toNat ∧
    (State.reset.setPc 0xFFFF).halted = false ∧ 4094 < (State.reset.setPc 0xFFFF).pc.toNat := by decide

/-- StepRunsTheDecodedInstruction: `pc` at 4094, the greatest in range, over an invalid word. -/
theorem witness_step_invalid :
    let s := (State.reset.setPc 4094).withFetchWord 16 0x5001
    s.halted = false ∧ s.pc.toNat ≤ 4094 ∧
    (0x5001 : Word).toNat = (s.byteAt s.pc.toNat).toNat * 256 + (s.byteAt (s.pc.toNat + 1)).toNat := by decide

/-- StepRunsTheDecodedInstruction, CounterCountsOkSteps: `pc` at 4094 over a word that decodes and runs. -/
theorem witness_step_runs :
    let s := (State.reset.setPc 4094).withFetchWord 16 0x6012
    s.halted = false ∧ s.pc.toNat ≤ 4094 ∧
    (0x6012 : Word).toNat = (s.byteAt s.pc.toNat).toNat * 256 + (s.byteAt (s.pc.toNat + 1)).toNat ∧
    decode 0x6012 = .ok (.ldImm 0 0x12) ∧ ∃ t, exec (.ldImm 0 0x12) s = .next t ∧ t.halted = false :=
  ⟨by decide, by decide, by decide, by decide, _, rfl, by decide⟩

/-- StepRunsTheDecodedInstruction, CounterCountsOkSteps: the handler of a decoded word takes a fault. -/
theorem witness_handler_faults :
    (withWord 0x00EE).halted = false ∧ decode 0x00EE = .ok .ret ∧
    ∃ t, exec .ret (withWord 0x00EE) = .next t ∧ t.halted = true :=
  ⟨by decide, by decide, _, rfl, by decide⟩

/-- StepFaultsExactlyForTheFourCauses: a running machine for each cause of a fault. -/
theorem witness_fault_causes :
    FaultCause (State.reset.setPc 4095) (.pcOutOfRange 4095) ∧
    FaultCause (withWord 0x5001) (.invalidInstruction 0x5001 0x200) ∧
    FaultCause { withWord 0x2300 with sp := 16 } (.stackOverflow 0x200 0x2300) ∧
    FaultCause (withWord 0x00EE) (.stackUnderflow 0x200 0x00EE) :=
  ⟨⟨by decide, by decide⟩, ⟨by decide, by decide, by decide, witness_invalid_word⟩,
    ⟨by decide, by decide, by decide, ⟨0x300, by decide⟩, by decide⟩, ⟨by decide, by decide, by decide, by decide, by decide⟩⟩

/-- StepFaultsExactlyForTheFourCauses: a STEP that ends halted. -/
theorem witness_step_halts : ∃ t, step (withWord 0x5001) = .next t ∧ t.halted = true := ⟨_, rfl, by decide⟩

/-- HaltedMachineWaitsForReset: a halted machine and a history without RESET. -/
theorem witness_halted_history :
    State.halted { State.reset with halted := true } = true ∧ ∀ k < 5, (fun _ : Nat => HostOp.tick) k ≠ .reset :=
  ⟨rfl, nofun⟩

/-- ZeroMemoryRunsOffTheEnd: one STEP before the end of memory. -/
theorem witness_zero_memory :
    (State.reset.setPc 4094).halted = false ∧ (State.reset.setPc 4094).pc.toNat + 2 * 1 = 4096 ∧
    ∀ a, (State.reset.setPc 4094).pc.toNat ≤ a → a < 4096 → (State.reset.setPc 4094).byteAt a = 0 := by
  refine ⟨rfl, rfl, fun a h g => ?_⟩
  have : a = 4094 ∨ a = 4095 := by
    have e : (State.reset.setPc 4094).pc.toNat = 4094 := rfl
    omega
  rcases this with rfl | rfl <;> decide

/-- ResetGivesTheStatedState, HaltGatesStepOnly, SoundTimerAffectsNothing: an operation that is neither RESET nor STEP, on
a halted machine; the zeroed memory has addresses at both ends. -/
theorem witness_other_operation :
    HostOp.tick ≠ .reset ∧ HostOp.tick ≠ .step ∧ State.halted { State.reset with halted := true } = true ∧
    80 ≤ 80 ∧ 4095 < 4096 := by decide

/-- ResetStateIsWhatResetGives. -/
theorem witness_default_params : State.reset.params = Config.defaultParams := rfl

/-- ResetStateMeetsTheInvariant's state meets the invariant, so EveryStepKeepsTheInvariant has a start; a STEP follows. -/
theorem witness_invariant : Inv State.reset ∧ ∃ t, step State.reset = .next t :=
  ⟨⟨by decide, by decide, by decide, ⟨nofun, fun ⟨_, h⟩ => nomatch h⟩⟩, _, rfl⟩

/-- ReachableStatesMeetTheInvariant. -/
theorem witness_reachable : Reachable (runOps [.step, .tick] State.reset.resetOp) := ⟨State.reset, [.step, .tick], rfl⟩

/-- InstructionsWriteOnlyTheirFootprint: canonical memory, not the empty list, and an instruction that stores. -/
theorem witness_footprint :
    Memory.wf (withWord 0xF055).mem ∧ (withWord 0xF055).mem ≠ [] ∧
    ∃ t, exec (.store 0) (withWord 0xF055) = .next t := ⟨by decide, by decide, _, rfl⟩

/-- InstructionsReadOnlyTheirOperands: registers that differ where the instruction does not read. -/
theorem witness_read_registers :
    let v := State.reset.v.set 3 7
    (∀ r : RegIdx, readRegs (.addReg 1 2) r = true → v[r] = State.reset.reg r) ∧ v ≠ State.reset.v := by decide

/-- StaleStackEntriesAreNeverRead: two states that differ in a stale entry alone. -/
theorem witness_stale :
    let t := { State.reset with stack := State.reset.stack.set 0 0x206 }
    SameUpToStale State.reset t ∧ t ≠ State.reset :=
  ⟨⟨by decide, by decide⟩, by decide⟩

/-- SysIsANoOp: the addresses around the two excluded ones. -/
theorem witness_sys :
    ((0x0DF : Addr) ≠ 0x0E0 ∧ (0x0DF : Addr) ≠ 0x0EE) ∧ ((0x0EF : Addr) ≠ 0x0E0 ∧ (0x0EF : Addr) ≠ 0x0EE) := by decide

/-- CallPushesOrOverflows: the last entry free, with its index, and none. -/
theorem witness_call :
    State.reset.sp.val < 16 ∧ (15 : Fin 17).val < 16 ∧ (15 : Fin 16).val = (15 : Fin 17).val ∧ (16 : Fin 17).val = 16 := by
  decide

/-- ReturnPopsOrUnderflows: one entry, with its index, a full stack, and none. -/
theorem witness_return :
    0 < (1 : Fin 17).val ∧ (0 : Fin 16).val + 1 = (1 : Fin 17).val ∧ 0 < (16 : Fin 17).val ∧
    (15 : Fin 16).val + 1 = (16 : Fin 17).val ∧ State.reset.sp.val = 0 := by decide

/-- ReturnComesBackAfterCall: the last entry free, and a callee that changed a register. -/
theorem witness_call_return :
    let s := { State.reset with sp := 15 }
    s.sp.val < 16 ∧ ∃ t u : State, exec (.call 0x300) s = .next t ∧ u.stack = t.stack ∧ u.sp = t.sp ∧ u ≠ t := by
  refine ⟨by decide, { State.reset with sp := 16, stack := State.reset.stack.set 15 0x202, pc := 0x300 },
    { State.reset with sp := 16, stack := State.reset.stack.set 15 0x202, pc := 0x302 }, rfl, rfl, rfl, by decide⟩

/-- RegisterSkips: low nibbles that are not 0. -/
theorem witness_low_nibble : (1 : Fin 16).val ≠ 0 ∧ (15 : Fin 16).val ≠ 0 := by decide

/-- The flag-producing instructions: `x` is not 15; `x = 15` under either parameter. -/
theorem witness_flagged :
    (14 : RegIdx) ≠ 15 ∧ State.reset.params.flagLast = false ∧
    (State.params { State.reset with params := ⟨Config.defaultFont, true⟩ }).flagLast = true := by decide

/-- DecimalDigitsAreStored, RegistersAreStored, LoadPlacesTheImage: canonical memory, and the register range of a store. -/
theorem witness_canonical : Memory.wf State.reset.mem ∧ Memory.wf (withWord 0xF055).mem ∧ (15 : Fin 16).val ≤ (15 : RegIdx).val := by
  decide

/-- StoredRegistersComeBack: a store, then registers changed with memory and `I` kept. -/
theorem witness_store_load :
    let s := State.reset.setReg 0 5
    Memory.wf s.mem ∧ ∃ t u : State, exec (.store 0) s = .next t ∧ u.mem = t.mem ∧ u.index = s.index ∧ u.reg 0 ≠ s.reg 0 :=
  ⟨by decide, _, State.setReg { State.reset with mem := [(0, 5)] } 0 9, rfl, by decide, by decide, by decide⟩

/-- StoredCodeIsFetchedNext: the last `pc` whose next instruction lies in memory. -/
theorem witness_self_modifying :
    let s := (State.reset.setPc 4092).setIndex 4094
    Memory.wf s.mem ∧ 1 ≤ (1 : RegIdx).val ∧ s.pc.toNat ≤ 4092 ∧ s.index = s.pc + 2 ∧
    ∃ t, exec (.store 1) s = .next t := ⟨by decide, by decide, by decide, by decide, _, rfl⟩

/-- SpritesAreClippedNotWrapped: a pixel a draw changes, and start positions just off the grid on either side. -/
theorem witness_clipping :
    (∃ t, exec (.drw 0 0 1) State.reset = .next t ∧ Grid.pixel t.display 0 0 ≠ Grid.pixel State.reset.display 0 0) ∧
    64 ≤ ((State.reset.setReg 0 64).reg 0).toNat ∧ 32 ≤ ((State.reset.setReg 1 32).reg 1).toNat :=
  ⟨⟨_, rfl, by decide⟩, by decide, by decide⟩

/-- DrawingTwiceRestoresTheDisplay. -/
theorem witness_draw_twice : (14 : RegIdx) ≠ 15 ∧ (0 : RegIdx) ≠ 15 := by decide

/-- KeySkips: the last key, and the first value that names none. -/
theorem witness_key_index :
    ((State.reset.setReg 4 15).reg 4).toNat = (15 : Fin 16).val ∧ 16 ≤ ((State.reset.setReg 4 16).reg 4).toNat := by decide

/-- WaitTakesTheLowestPressedKey: two keys held, the last alone, and none. -/
theorem witness_wait :
    let s := { State.reset with key := (State.reset.key.set 3 true).set 15 true }
    let l := { State.reset with key := State.reset.key.set 15 true }
    (s.key[(3 : Fin 16)] = true ∧ ∀ j : Fin 16, j < 3 → s.key[j] = false) ∧
    (l.key[(15 : Fin 16)] = true ∧ ∀ j : Fin 16, j < 15 → l.key[j] = false) ∧
    ∀ k : Fin 16, State.reset.key[k] = false := by decide

/-- OnlyTicksMoveATimer: STEPs between two TICKs, with a timer that reaches 0, and no RESET and no setting of a timer. -/
theorem witness_ticks_among_steps :
    let h : Nat → HostOp := fun k => if k % 2 = 0 then .step else .tick
    let s := { State.reset with dt := 1 }
    (∀ k < 3, h k ≠ .reset) ∧ (∀ k < 3, h k = .step → ∀ x, ¬ Runs (stateAt h s k) (.ldDTVx x)) ∧
    (∀ k < 3, h k = .step → ∀ x, ¬ Runs (stateAt h s k) (.ldSTVx x)) := by
  refine ⟨by decide, ?_, ?_⟩ <;>
  · intro k hk _ x ⟨_, _, hd⟩
    have : k = 0 ∨ k = 1 ∨ k = 2 := by omega
    rcases this with rfl | rfl | rfl <;> (clear hk; revert x; decide)

/-- SetKeySetsOneKey: another key, and the first index outside the contract. -/
theorem witness_set_key : (14 : Fin 16) ≠ 15 ∧ 16 ≤ 16 := by decide

/-- LoadPlacesTheImage: the shortest image too long, the longest that fits, and addresses on either side of one. -/
theorem witness_images :
    3584 < (List.replicate 3585 (0xAA : Byte)).length ∧ (List.replicate 3584 (0xAA : Byte)).length ≤ 3584 ∧
    3583 < (List.replicate 3584 (0xAA : Byte)).length ∧ 0x1FF < 0x200 ∧ 0x200 + 2 ≤ 0x202 := by
  simp only [List.length_replicate]; decide

end Sys2Proof.Tests
end

section
/-! PROOFS of the family 00_scope: every STEP has one outcome (O7), and every reachable state meets the invariant (O16).
Both rest on one inversion lemma for the handlers, `exec_completes_or_faults`: a handler takes a fault, or it completes
and then touches `pc`, the stack and memory in one of a few ways only. -/

namespace Sys2Proof.Machine

/-! ## What a handler can do -/

/-- The values a completing handler can leave in `pc` (R99, R131 to R133, R138, R262). -/
inductive PcTarget (s : State) : Word → Prop where
  /-- `FX0A` without a key polls again -/
  | stay : PcTarget s s.pc
  /-- the plain advance -/
  | advance : PcTarget s (s.pc + 2)
  /-- a skip taken -/
  | skip : PcTarget s (s.pc + 4)
  /-- a jump or a call; `BNNN` reaches highest, 0xFFF + 0xFF -/
  | jump {w : Word} (h : w.toNat ≤ 0x10FE) : PcTarget s w
  /-- a return to a stacked address -/
  | ret (k : Fin 16) : PcTarget s s.stack[k]

/-- `t` is `s` after a handler that took no fault: neither the halt flag nor the observations move (`closeStep` records
them), memory takes at most one store from `I` on, and a stack entry is kept or receives the return address. -/
structure Completes (s t : State) : Prop where
  halted : t.halted = s.halted
  lastOutcome : t.lastOutcome = s.lastOutcome
  executed : t.executed = s.executed
  mem : ∃ vs, t.mem = Memory.writeFrom s.mem s.index.toNat 0 vs
  stack : ∀ k : Fin 16, t.stack[k] = s.stack[k] ∨ t.stack[k] = s.pc + 2
  pc : PcTarget s t.pc

/-- The instructions that write registers, `I`, a timer or the display, or draw a byte, and then advance. -/
theorem completes_advance (s : State) (v : Vector Byte 16) (index : Word) (display : Grid) (dt st : Byte) (draws : Nat) :
    Completes s (State.advance { s with v, index, display, dt, st, draws }) :=
  ⟨rfl, rfl, rfl, ⟨[], rfl⟩, fun _ => .inl rfl, .advance⟩

theorem completes_writeFlagged_advance (s : State) (x : RegIdx) (r : AluResult) :
    Completes s (s.writeFlagged x r).advance := by
  obtain ⟨v, hv⟩ := s.writeFlagged_eq x r
  rw [hv]
  exact completes_advance ..

theorem completes_storeAtIndex_advance (s : State) (vs : List Byte) : Completes s (s.storeAtIndex vs).advance :=
  ⟨rfl, rfl, rfl, ⟨vs, rfl⟩, fun _ => .inl rfl, .advance⟩

theorem completes_setPc {s : State} {w : Word} (h : PcTarget s w) : Completes s (s.setPc w) :=
  ⟨rfl, rfl, rfl, ⟨[], rfl⟩, fun _ => .inl rfl, h⟩

theorem completes_skipIf (s : State) (c : Bool) : Completes s (s.skipIf c) := by
  cases c with
  | false => exact completes_setPc .advance
  | true => exact completes_setPc .skip

theorem toNat_addrOperand (nnn : Addr) : (addrOperand nnn).toNat = nnn.toNat :=
  BitVec.toNat_setWidth_of_le (by decide)

theorem toNat_addrOperand_le (nnn : Addr) : (addrOperand nnn).toNat ≤ 0x10FE := by
  have := nnn.isLt
  rw [toNat_addrOperand]
  omega

/-- The sum of `BNNN` stays below 0x10FF, so it does not wrap (R138). -/
theorem toNat_addrOperand_add_regWord_le (nnn : Addr) (s : State) (x : RegIdx) :
    (addrOperand nnn + s.regWord x).toNat ≤ 0x10FE := by
  have := nnn.isLt
  have := (s.reg x).isLt
  simp only [State.regWord, BitVec.toNat_add, toNat_addrOperand, BitVec.toNat_setWidth]
  omega

/-- `2NNN` with a free stack entry (R133). -/
theorem execCall_of_lt (nnn : Addr) {s : State} (h : s.sp.val < 16) :
    execCall nnn s = .next (State.setPc { s with
      stack := s.stack.set s.sp.val (s.pc + 2) h, sp := ⟨s.sp.val + 1, by omega⟩ } (addrOperand nnn)) := by
  simp [execCall, s.push_of_lt _ h]

/-- `2NNN` on a full stack (R302). -/
theorem execCall_of_full (nnn : Addr) {s : State} (h : s.sp.val = 16) :
    execCall nnn s = .next (s.takeFault (.stackOverflow s.pc (encode (.call nnn)))) := by
  simp [execCall, s.push_of_full _ h]

/-- `00EE` with a stacked address (R131). -/
theorem execRet_of_pos {s : State} (h : s.sp.val ≠ 0) :
    execRet s = .next (State.setPc { s with sp := ⟨s.sp.val - 1, by omega⟩ } (s.stack[s.sp.val - 1]'(by omega))) := by
  simp [execRet, s.pop_of_pos h]

/-- `00EE` on an empty stack (R303). -/
theorem execRet_of_empty {s : State} (h : s.sp.val = 0) :
    execRet s = .next (s.takeFault (.stackUnderflow s.pc (encode .ret))) := by
  simp [execRet, s.pop_of_empty h]

/-- `FX0A` with a key pressed (R262). -/
theorem execLdVxK_of_some (x : RegIdx) {s : State} {k : Fin 16} (h : s.lowestKey = some k) :
    execLdVxK x s = .next (s.setReg x (BitVec.ofNat 8 k.val)).advance := by
  simp [execLdVxK, h]

/-- `FX0A` with no key pressed (R262). -/
theorem execLdVxK_of_none (x : RegIdx) {s : State} (h : s.lowestKey = none) : execLdVxK x s = .next s := by
  simp [execLdVxK, h]

theorem execCall_completes_or_faults (nnn : Addr) (s : State) :
    ∃ t, execCall nnn s = .next t ∧ (Completes s t ∨ ∃ f, t = s.takeFault f) := by
  by_cases h : s.sp.val < 16
  · refine ⟨_, execCall_of_lt nnn h, .inl ⟨rfl, rfl, rfl, ⟨[], rfl⟩, fun k => ?_, .jump ?_⟩⟩
    · simp only [State.setPc_stack, Fin.getElem_fin, Vector.getElem_set]
      split
      · exact .inr rfl
      · exact .inl rfl
    · exact toNat_addrOperand_le nnn
  · exact ⟨_, execCall_of_full nnn (by omega), .inr ⟨_, rfl⟩⟩

theorem execRet_completes_or_faults (s : State) :
    ∃ t, execRet s = .next t ∧ (Completes s t ∨ ∃ f, t = s.takeFault f) := by
  by_cases h : s.sp.val = 0
  · exact ⟨_, execRet_of_empty h, .inr ⟨_, rfl⟩⟩
  · exact ⟨_, execRet_of_pos h,
      .inl ⟨rfl, rfl, rfl, ⟨[], rfl⟩, fun _ => .inl rfl, .ret (s := s) ⟨s.sp.val - 1, by omega⟩⟩⟩

theorem execLdVxK_completes (x : RegIdx) (s : State) : ∃ t, execLdVxK x s = .next t ∧ Completes s t := by
  cases h : s.lowestKey with
  | none => exact ⟨s, execLdVxK_of_none x h, rfl, rfl, rfl, ⟨[], rfl⟩, fun _ => .inl rfl, .stay⟩
  | some k => exact ⟨_, execLdVxK_of_some x h, completes_advance ..⟩

/-- Every handler answers a next state, in which it has completed or taken a fault. -/
theorem exec_completes_or_faults (i : Instr) (s : State) :
    ∃ t, exec i s = .next t ∧ (Completes s t ∨ ∃ f, t = s.takeFault f) := by
  cases i with
  | call nnn => exact execCall_completes_or_faults nnn s
  | ret => exact execRet_completes_or_faults s
  | ldVxK x =>
    obtain ⟨t, ht, hc⟩ := execLdVxK_completes x s
    exact ⟨t, ht, .inl hc⟩
  | jp nnn => exact ⟨_, rfl, .inl (completes_setPc (.jump (toNat_addrOperand_le nnn)))⟩
  | jpV0 nnn => exact ⟨_, rfl, .inl (completes_setPc (.jump (toNat_addrOperand_add_regWord_le nnn s regV0)))⟩
  | seImm | sneImm | seReg | sneReg | skp | sknp => exact ⟨_, rfl, .inl (completes_skipIf ..)⟩
  | addReg | subReg | shr | subn | shl => exact ⟨_, rfl, .inl (completes_writeFlagged_advance ..)⟩
  | ldB | store => exact ⟨_, rfl, .inl (completes_storeAtIndex_advance ..)⟩
  | cls | sys | ldImm | addImm | ldReg | orReg | andReg | xorReg | ldI | rnd | drw | ldVxDT | ldDTVx | ldSTVx | addI
  | ldF | load => exact ⟨_, rfl, .inl (completes_advance ..)⟩

/-! ## The outcome of a STEP -/

/-- STEP on a running machine is never refused: it completes an instruction that stood in range, or takes a fault. -/
theorem step_completes_or_faults {s : State} (h : s.halted = false) :
    (∃ t, s.pc.toNat ≤ 4094 ∧ Completes s t ∧ step s = .next t.retire) ∨ ∃ f, step s = .next (s.takeFault f) := by
  by_cases hp : s.pc.toNat ≤ 4094
  · cases hd : decode s.fetch with
    | error e => exact .inr ⟨_, step_of_invalid h hp hd⟩
    | ok i =>
      obtain ⟨t, ht, hcases⟩ := exec_completes_or_faults i s
      rw [step_of_decoded h hp hd, ht, closeStep_next]
      obtain hc | ⟨f, rfl⟩ := hcases
      · exact .inl ⟨t, hp, hc, by simp [hc.halted, h]⟩
      · exact .inr ⟨f, rfl⟩
  · exact .inr ⟨_, step_of_pc_out_of_range h (by omega)⟩

/-- Settles O7: a running STEP completes an instruction and records `Ok`, or takes a fault. -/
theorem everyStepHasOneOutcome : Obligations.EveryStepHasOneOutcome := by
  intro s
  refine ⟨step_of_halted, fun h => ?_⟩
  obtain ⟨t, -, hc, ht⟩ | ⟨f, hf⟩ := step_completes_or_faults h
  · exact ⟨_, ht, .inl ⟨hc.halted.trans h, rfl⟩⟩
  · exact ⟨_, hf, .inr ⟨rfl, f, rfl⟩⟩

/-! ## The invariant -/

/-- From a fetch in range, with return addresses in range, `pc` stays below 0x10FF (R101). -/
theorem PcTarget.toNat_le {s : State} {w : Word} (h : PcTarget s w) (hp : s.pc.toNat ≤ 4094)
    (hstack : ∀ k : Fin 16, s.stack[k].toNat ≤ 4096) : w.toNat ≤ 0x10FE := by
  cases h with
  | stay => omega
  | advance => bv_omega
  | skip => bv_omega
  | jump h => exact h
  | ret k => exact (hstack k).trans (by decide)

theorem takeFault_keeps_inv {s : State} (h : Inv s) (f : Fault) : Inv (s.takeFault f) :=
  ⟨h.mem, h.pc, h.stack, ⟨fun _ => ⟨f, rfl⟩, fun _ => rfl⟩⟩

/-- An instruction that completes and is recorded as `Ok` keeps the invariant. -/
theorem retire_keeps_inv {s t : State} (h : Inv s) (hrun : s.halted = false) (hp : s.pc.toNat ≤ 4094)
    (hc : Completes s t) : Inv t.retire where
  mem := by
    obtain ⟨vs, hvs⟩ := hc.mem
    rw [State.retire_mem, hvs]
    exact Memory.wf_writeFrom h.mem _ _ _
  pc := hc.pc.toNat_le hp h.stack
  stack k := by
    rw [State.retire_stack]
    obtain hk | hk := hc.stack k
    · rw [hk]; exact h.stack k
    · rw [hk]; bv_omega
  outcome := by simp [hc.halted, hrun]

theorem resetOp_meets_inv (s : State) : Inv s.resetOp where
  mem := Memory.wf_writeFrom Memory.wf_nil _ _ _
  pc := by simp
  stack k := by simp
  outcome := by simp

theorem step_keeps_inv {s t : State} (h : Inv s) (hs : step s = .next t) : Inv t := by
  obtain ⟨hrun, -⟩ := step_cases hs
  obtain ⟨u, hp, hc, hu⟩ | ⟨f, hf⟩ := step_completes_or_faults hrun
  · obtain rfl : u.retire = t := by simpa [hu] using hs
    exact retire_keeps_inv h hrun hp hc
  · obtain rfl : s.takeFault f = t := by simpa [hf] using hs
    exact takeFault_keeps_inv h f

theorem setKey_keeps_inv {s t : State} {k : Nat} {pressed : Bool} (h : Inv s) (hs : setKey k pressed s = .next t) : Inv t := by
  unfold setKey at hs
  split at hs
  · cases hs; exact ⟨h.mem, h.pc, h.stack, h.outcome⟩
  · cases hs

theorem load_keeps_inv {s t : State} {image : List Byte} (h : Inv s) (hs : load image s = .ok t) : Inv t := by
  unfold load at hs
  split at hs
  · cases hs
  · cases hs; exact ⟨Memory.wf_writeFrom h.mem _ _ _, h.pc, h.stack, h.outcome⟩

/-- Every operation of the host keeps the invariant (R5). -/
theorem invoke_keeps_inv {s : State} (h : Inv s) (op : HostOp) : Inv (invoke op s).1 := by
  cases op with
  | step =>
    cases hs : step s with
    | next t => simpa [invoke, hs] using step_keeps_inv h hs
    | fault f => simpa [invoke, hs] using h
    | refused r => simpa [invoke, hs] using h
  | tick => exact ⟨h.mem, h.pc, h.stack, h.outcome⟩
  | setKey k pressed =>
    cases hs : setKey k pressed s with
    | next t => simpa [invoke, hs] using setKey_keeps_inv h hs
    | fault f => simpa [invoke, hs] using h
    | refused r => simpa [invoke, hs] using h
  | reset => exact resetOp_meets_inv s
  | load image =>
    cases hs : load image s with
    | ok t => simpa [invoke, hs] using load_keeps_inv h hs
    | imageTooLarge => simpa [invoke, hs] using h
  | display | delay | sound => exact h

/-- Every finite history keeps the invariant (R6). -/
theorem runOps_keeps_inv {s : State} (h : Inv s) (ops : List HostOp) : Inv (runOps ops s) := by
  induction ops generalizing s with
  | nil => exact h
  | cons op ops ih => exact ih (invoke_keeps_inv h op)

/-- Settles O16: construction resets the machine, and every operation of a history keeps the invariant. -/
theorem reachableStatesMeetTheInvariant : Obligations.ReachableStatesMeetTheInvariant := by
  rintro _ ⟨start, ops, rfl⟩
  exact runOps_keeps_inv (resetOp_meets_inv start) ops

end Sys2Proof.Machine
end

section
/-! PROOFS of the family 10_state: the invariant at reset and through a STEP (O13, O14, O15), the instruction counter (O9),
the halted machine (O10), what an instruction writes (O17) and reads (O18), and what no STEP reads (O19, O20, O21). -/

namespace Sys2Proof.Machine

/-! ## The invariant, at reset and through a STEP -/

/-- Settles O15: a STEP completes an instruction that stood in range or takes a fault, and either keeps the invariant. -/
theorem everyStepKeepsTheInvariant : Obligations.EveryStepKeepsTheInvariant :=
  fun _ _ h hs => step_keeps_inv h hs

/-- Settles O14. -/
theorem resetStateMeetsTheInvariant : Obligations.ResetStateMeetsTheInvariant where
  mem := Memory.wf_nil
  pc := by decide
  stack := by decide
  outcome := by simp [State.reset]

/-- Over memory that lists nothing, writing bytes that are the reset content of their addresses lists nothing. -/
theorem Memory.writeFrom_nil_of_resetBytes (base j : Nat) (vs : List Byte)
    (h : ∀ (k : Nat) (hk : k < vs.length), vs[k] = Config.resetByte (Memory.ea base (j + k))) :
    Memory.writeFrom [] base j vs = [] := by
  induction vs generalizing j with
  | nil => rfl
  | cons v vs ih =>
    have hv : v = Config.resetByte (Memory.wrap (Memory.ea base j)) :=
      (h 0 (by simp)).trans (by simp [Memory.ea])
    have hwrite : Memory.write [] (Memory.ea base j) v = [] := if_pos hv
    rw [Memory.writeFrom, hwrite]
    refine ih (j + 1) fun k hk => ?_
    rw [Nat.add_right_comm, Nat.add_assoc]
    exact h (k + 1) (by simpa using hk)

theorem Memory.writeFrom_defaultFont :
    Memory.writeFrom [] Config.fontBase 0 Config.defaultFont.toList = [] := by
  refine Memory.writeFrom_nil_of_resetBytes _ _ _ fun k hk => ?_
  have hwrap : Memory.ea Config.fontBase (0 + k) = k := by
    have : k < 80 := by simpa using hk
    simp only [Memory.ea, Memory.wrap, Config.fontBase, Config.memSize]
    omega
  rw [hwrap, Config.resetByte, List.getD_eq_getElem _ _ hk]

/-- Settles O13: the default font is the reset content of its addresses, so copying it lists no cell. -/
theorem resetStateIsWhatResetGives : Obligations.ResetStateIsWhatResetGives := by
  intro s hs
  have hmem : Memory.writeFrom [] Config.fontBase 0 s.params.font.toList = [] := by
    rw [hs]; exact Memory.writeFrom_defaultFont
  rw [State.resetOp, hmem, hs]
  rfl

/-! ## The instruction counter -/

/-- Settles O9: a completed instruction is counted once and runs on, a fault is not counted and halts. -/
theorem counterCountsOkSteps : Obligations.CounterCountsOkSteps := by
  intro s t hs
  obtain ⟨hrun, -⟩ := step_cases hs
  obtain ⟨u, -, hc, hu⟩ | ⟨f, hf⟩ := step_completes_or_faults hrun
  · obtain rfl : u.retire = t := by simpa [hu] using hs
    simp [hc.executed, hc.halted, hrun]
  · obtain rfl : s.takeFault f = t := by simpa [hf] using hs
    simp

/-! ## Host operations, and the halted machine -/

theorem invoke_step_of_halted {s : State} (h : s.halted = true) :
    invoke .step s = (s, .refused .alreadyHalted) := by
  simp [invoke, step_of_halted h]

/-- The state after SET_KEY (R317). -/
theorem invoke_setKey_fst (k : Nat) (pressed : Bool) (s : State) :
    (invoke (.setKey k pressed) s).1 = if h : k < 16 then { s with key := s.key.set k pressed h } else s := by
  by_cases h : k < 16 <;> simp [invoke, setKey, h]

/-- The state after LOAD (R353, R354). -/
theorem invoke_load_fst (image : List Byte) (s : State) :
    (invoke (.load image) s).1 =
      if image.length > Config.maxImage then s
      else { s with mem := Memory.writeFrom s.mem Config.progStart 0 image } := by
  by_cases h : image.length > Config.maxImage <;> simp [invoke, load, h]

/-- `t` is `s` up to what the host writes without STEP and RESET: memory, the timers and the keypad. -/
def SameButHostWrites (s t : State) : Prop := ∃ mem dt st key, t = { s with mem, dt, st, key }

theorem SameButHostWrites.refl (s : State) : SameButHostWrites s s := ⟨_, _, _, _, rfl⟩

theorem SameButHostWrites.trans {s t u : State} (h : SameButHostWrites s t) (g : SameButHostWrites t u) :
    SameButHostWrites s u := by
  obtain ⟨_, _, _, _, rfl⟩ := h
  obtain ⟨_, _, _, _, rfl⟩ := g
  exact ⟨_, _, _, _, rfl⟩

theorem invoke_of_halted {s : State} (h : s.halted = true) {op : HostOp} (hop : op ≠ .reset) :
    SameButHostWrites s (invoke op s).1 := by
  cases op with
  | reset => exact absurd rfl hop
  | step => rw [invoke_step_of_halted h]; exact .refl s
  | tick => exact ⟨_, _, _, _, rfl⟩
  | setKey k pressed =>
    rw [invoke_setKey_fst]
    split
    · exact ⟨_, _, _, _, rfl⟩
    · exact .refl s
  | load image =>
    rw [invoke_load_fst]
    split
    · exact .refl s
    · exact ⟨_, _, _, _, rfl⟩
  | display | delay | sound => exact .refl s

theorem stateAt_of_halted {history : Nat → HostOp} {s : State} (h : s.halted = true) {n : Nat}
    (hops : ∀ k < n, history k ≠ .reset) : SameButHostWrites s (stateAt history s n) := by
  induction n with
  | zero => exact .refl s
  | succ n ih =>
    have hn := ih fun k hk => hops k (Nat.lt_succ_of_lt hk)
    have hhalt : (stateAt history s n).halted = true := by
      obtain ⟨_, _, _, _, ht⟩ := hn
      rw [ht]; exact h
    exact hn.trans (invoke_of_halted hhalt (hops n n.lt_succ_self))

/-- Settles O10: without RESET a history writes only memory, timers and keypad of a halted machine. -/
theorem haltedMachineWaitsForReset : Obligations.HaltedMachineWaitsForReset := by
  intro history s n h hops
  obtain ⟨_, _, _, _, ht⟩ := stateAt_of_halted h hops
  rw [ht]
  exact ⟨h, rfl, rfl, rfl, rfl, rfl, rfl⟩

/-! ## What an instruction writes

One frame rule per state operation, for any footprint that covers what the operation writes; a handler's frame is their
composition. -/

theorem Unchanged.refl (f : Footprint) (s : State) : Unchanged f s s :=
  ⟨fun _ _ => rfl, fun _ _ => rfl, fun _ _ => rfl, fun _ _ _ => rfl, fun _ => rfl, fun _ => rfl, fun _ => rfl,
    fun _ => rfl, fun _ => ⟨rfl, rfl⟩, fun _ => rfl, ⟨rfl, rfl, rfl⟩⟩

theorem Unchanged.trans {f : Footprint} {s t u : State} (h : Unchanged f s t) (g : Unchanged f t u) :
    Unchanged f s u where
  regs x hx := (g.regs x hx).trans (h.regs x hx)
  bytes a ha := (g.bytes a ha).trans (h.bytes a ha)
  stack k hk := (g.stack k hk).trans (h.stack k hk)
  pixels r c hp := (g.pixels r c hp).trans (h.pixels r c hp)
  index hf := (g.index hf).trans (h.index hf)
  sp hf := (g.sp hf).trans (h.sp hf)
  dt hf := (g.dt hf).trans (h.dt hf)
  st hf := (g.st hf).trans (h.st hf)
  fault hf := ⟨(g.fault hf).1.trans (h.fault hf).1, (g.fault hf).2.trans (h.fault hf).2⟩
  draws hf := (g.draws hf).trans (h.draws hf)
  fixed :=
    let ⟨hk, he, hp⟩ := h.fixed
    let ⟨gk, ge, gp⟩ := g.fixed
    ⟨gk.trans hk, ge.trans he, gp.trans hp⟩

/-- `pc` is in every footprint. -/
theorem Unchanged.setPc {f : Footprint} {s t : State} (h : Unchanged f s t) (w : Word) : Unchanged f s (t.setPc w) :=
  h.trans { Unchanged.refl f t with }

theorem Unchanged.advance {f : Footprint} {s t : State} (h : Unchanged f s t) : Unchanged f s t.advance :=
  h.setPc _

theorem unchanged_skipIf (f : Footprint) (s : State) (c : Bool) : Unchanged f s (s.skipIf c) :=
  (Unchanged.refl f s).setPc _

theorem unchanged_regs {f : Footprint} (s : State) {v : Vector Byte 16}
    (hf : ∀ x : RegIdx, f.regs x = false → v[x] = s.v[x]) : Unchanged f s { s with v } :=
  { Unchanged.refl f s with regs := hf }

theorem unchanged_setReg {f : Footprint} (s : State) {x : RegIdx} (b : Byte) (hx : f.regs x = true) :
    Unchanged f s (s.setReg x b) :=
  unchanged_regs s fun y hy => s.reg_setReg_of_ne b (by rintro rfl; simp [hx] at hy)

theorem unchanged_writeFlagged {f : Footprint} (s : State) {x : RegIdx} (r : AluResult) (hx : f.regs x = true)
    (hVF : f.regs regVF = true) : Unchanged f s (s.writeFlagged x r) := by
  unfold State.writeFlagged
  split
  · exact (unchanged_setReg s _ hx).trans (unchanged_setReg _ _ hVF)
  · exact (unchanged_setReg s _ hVF).trans (unchanged_setReg _ _ hx)

theorem unchanged_setFirstRegs {f : Footprint} (s : State) {bs : List Byte}
    (hf : ∀ y : RegIdx, y.val < bs.length → f.regs y = true) : Unchanged f s (s.setFirstRegs bs) :=
  unchanged_regs s fun y hy => by
    have hlen : bs.length ≤ y.val := Nat.not_lt.mp fun h => by simp [hf y h] at hy
    exact (s.reg_setFirstRegs bs y).trans (List.getD_eq_default _ _ hlen)

theorem unchanged_setIndex {f : Footprint} (s : State) (w : Word) (hf : f.index = true) :
    Unchanged f s (s.setIndex w) :=
  { Unchanged.refl f s with index := by simp [hf] }

theorem unchanged_setDT {f : Footprint} (s : State) (b : Byte) (hf : f.dt = true) : Unchanged f s (s.setDT b) :=
  { Unchanged.refl f s with dt := by simp [hf] }

theorem unchanged_setST {f : Footprint} (s : State) (b : Byte) (hf : f.st = true) : Unchanged f s (s.setST b) :=
  { Unchanged.refl f s with st := by simp [hf] }

theorem unchanged_draw {f : Footprint} (s : State) (hf : f.draw = true) : Unchanged f s s.draw.2 :=
  { Unchanged.refl f s with draws := by simp [hf] }

theorem unchanged_takeFault {f : Footprint} (s : State) (e : Fault) (hf : f.fault = true) :
    Unchanged f s (s.takeFault e) :=
  { Unchanged.refl f s with fault := by simp [hf] }

theorem unchanged_storeAtIndex {f : Footprint} {s : State} (hm : Memory.wf s.mem) {vs : List Byte}
    (hf : ∀ j < vs.length, f.bytes (s.ea j) = true) : Unchanged f s (s.storeAtIndex vs) :=
  { Unchanged.refl f s with
    bytes := fun a ha => Memory.read_writeFrom_of_ne hm _ _ _ _ fun k hk heq => by
      rw [Nat.zero_add] at heq
      have := hf k hk
      simp [State.ea, heq, ha] at this }

theorem unchanged_display {f : Footprint} (s : State) {g : Grid}
    (hf : ∀ r c, f.pixels r c = false → Grid.pixel g r c = Grid.pixel s.display r c) :
    Unchanged f s { s with display := g } :=
  { Unchanged.refl f s with pixels := hf }

theorem unchanged_push {f : Footprint} {s : State} {w : Word} (h : s.sp.val < 16) (hsp : f.sp = true)
    (hf : ∀ k : Fin 16, k.val = s.sp.val → f.stack k = true) :
    Unchanged f s { s with stack := s.stack.set s.sp.val w h, sp := ⟨s.sp.val + 1, by omega⟩ } :=
  { Unchanged.refl f s with
    sp := by simp [hsp]
    stack := fun k hk => by
      have hne : s.sp.val ≠ k.val := fun heq => by simp [hf k heq.symm] at hk
      exact Vector.getElem_set_ne h k.isLt hne }

theorem unchanged_withSp {f : Footprint} (s : State) (sp : Fin 17) (hsp : f.sp = true) : Unchanged f s { s with sp } :=
  { Unchanged.refl f s with sp := by simp [hsp] }

/-- A sprite inverts pixels of its box alone. -/
theorem pixel_spriteCanvas_of_not_spriteBox (s : State) (x y : RegIdx) (n : Fin 16) {r c : Nat}
    (h : spriteBox s x y n.val r c = false) :
    Grid.pixel (spriteCanvas x y n s).grid r c = Grid.pixel s.display r c := by
  obtain ⟨hpixel, -⟩ := Canvas.drawRows_spec { grid := s.display, collided := false }
    (s.reg y).toNat (s.reg x).toNat (s.loadAtIndex n.val)
  rw [spriteCanvas, hpixel, rowsCover_loadAtIndex]
  simp [spriteCovers, h]

theorem bytesFromIndex_ea (s : State) {count j : Nat} (h : j < count) : bytesFromIndex s count (s.ea j) = true := by
  simp only [bytesFromIndex, List.any_eq_true, List.mem_range, beq_iff_eq]
  exact ⟨j, h, rfl⟩

theorem onlyReg_self (x : RegIdx) : onlyReg x x = true := by simp [onlyReg]

theorem regAndVF_self (x : RegIdx) : regAndVF x x = true := by simp [regAndVF]

theorem regAndVF_regVF (x : RegIdx) : regAndVF x regVF = true := by simp [regAndVF]

theorem execRet_unchanged (s : State) : ∃ t, execRet s = .next t ∧ Unchanged (footprint .ret s) s t := by
  by_cases h : s.sp.val = 0
  · exact ⟨_, execRet_of_empty h, unchanged_takeFault s _ (by simp [footprint, h])⟩
  · exact ⟨_, execRet_of_pos h, (unchanged_withSp s _ (by simp [footprint, h])).setPc _⟩

theorem execCall_unchanged (nnn : Addr) (s : State) :
    ∃ t, execCall nnn s = .next t ∧ Unchanged (footprint (.call nnn) s) s t := by
  by_cases h : s.sp.val = 16
  · exact ⟨_, execCall_of_full nnn h, unchanged_takeFault s _ (by simp [footprint, h])⟩
  · have hlt : s.sp.val < 16 := by omega
    exact ⟨_, execCall_of_lt nnn hlt, (unchanged_push hlt (by simp [footprint, h]) (by simp [footprint, h])).setPc _⟩

theorem execLdVxK_unchanged (x : RegIdx) (s : State) :
    ∃ t, execLdVxK x s = .next t ∧ Unchanged (footprint (.ldVxK x) s) s t := by
  cases h : s.lowestKey with
  | none => exact ⟨s, execLdVxK_of_none x h, .refl _ s⟩
  | some k => exact ⟨_, execLdVxK_of_some x h, (unchanged_setReg s _ (by simp [footprint, h, onlyReg])).advance⟩

/-- Every handler writes within its footprint (R20, R23, R62). -/
theorem exec_unchanged (i : Instr) {s : State} (hm : Memory.wf s.mem) :
    ∃ t, exec i s = .next t ∧ Unchanged (footprint i s) s t := by
  cases i with
  | ret => exact execRet_unchanged s
  | call nnn => exact execCall_unchanged nnn s
  | ldVxK x => exact execLdVxK_unchanged x s
  | cls => exact ⟨_, rfl, (unchanged_display s fun _ _ (h : true = false) => nomatch h).advance⟩
  | sys => exact ⟨_, rfl, (Unchanged.refl _ s).advance⟩
  | jp | jpV0 => exact ⟨_, rfl, (Unchanged.refl _ s).setPc _⟩
  | seImm | sneImm | seReg | sneReg | skp | sknp => exact ⟨_, rfl, unchanged_skipIf ..⟩
  | ldImm x | addImm x | ldReg x | orReg x | andReg x | xorReg x | ldVxDT x =>
    exact ⟨_, rfl, (unchanged_setReg s _ (onlyReg_self x)).advance⟩
  | addReg x | subReg x | shr x | subn x | shl x =>
    exact ⟨_, rfl, (unchanged_writeFlagged s _ (regAndVF_self x) (regAndVF_regVF x)).advance⟩
  | rnd x nn => exact ⟨_, rfl, ((unchanged_draw s rfl).trans (unchanged_setReg _ _ (onlyReg_self x))).advance⟩
  | drw x y n =>
    refine ⟨_, rfl, ((unchanged_display s fun r c h => ?_).trans (unchanged_setReg _ _ (onlyReg_self regVF))).advance⟩
    exact pixel_spriteCanvas_of_not_spriteBox s x y n h
  | ldI | addI | ldF => exact ⟨_, rfl, (unchanged_setIndex s _ rfl).advance⟩
  | ldDTVx => exact ⟨_, rfl, (unchanged_setDT s _ rfl).advance⟩
  | ldSTVx => exact ⟨_, rfl, (unchanged_setST s _ rfl).advance⟩
  | ldB x =>
    exact ⟨_, rfl, (unchanged_storeAtIndex hm fun _ hj => bytesFromIndex_ea s hj).advance⟩
  | store x =>
    refine ⟨_, rfl, (unchanged_storeAtIndex hm fun j hj => bytesFromIndex_ea s ?_).advance⟩
    simpa using hj
  | load x =>
    refine ⟨_, rfl, (unchanged_setFirstRegs s fun y hy => decide_eq_true ?_).advance⟩
    simpa [State.loadAtIndex, Nat.lt_succ_iff] using hy

/-- Settles O17. -/
theorem instructionsWriteOnlyTheirFootprint : Obligations.InstructionsWriteOnlyTheirFootprint := by
  intro i s t hm ht
  obtain ⟨u, hu, hunchanged⟩ := exec_unchanged i hm
  obtain rfl : u = t := by simpa [hu] using ht
  exact hunchanged

/-! ## What an instruction reads

Two runs side by side, from `s` and from `s` with another register file `v`. -/

/-- `t` and `u` have come from `s` and `s.withRegs v` with the same writes: in the footprint's registers they agree, the
others they keep, and all else is the same. -/
structure RegsTracked (f : Footprint) (s : State) (v : Vector Byte 16) (t u : State) : Prop where
  written : ∀ r : RegIdx, f.regs r = true → u.reg r = t.reg r
  kept : ∀ r : RegIdx, f.regs r = false → t.reg r = s.reg r ∧ u.reg r = v[r]
  rest : u.withRegs t.v = t

section
variable {f : Footprint} {s t : State} {v : Vector Byte 16}

theorem RegsTracked.sameButRegs {u : State} (h : RegsTracked f s v t u) : SameButRegs f t u := ⟨h.written, h.rest⟩

theorem RegsTracked.setPc {u : State} (h : RegsTracked f s v t u) (w : Word) :
    RegsTracked f s v (t.setPc w) (u.setPc w) :=
  ⟨h.written, h.kept, congrArg (·.setPc w) h.rest⟩

theorem RegsTracked.advance {u : State} (h : RegsTracked f s v t u) : RegsTracked f s v t.advance u.advance := by
  have hpc : u.pc = t.pc := by rw [← h.rest]; rfl
  rw [State.advance, State.advance, hpc]
  exact h.setPc _

theorem regsTracked_of_no_write (hf : ∀ r, f.regs r = false) (ht : t.v = s.v) :
    RegsTracked f s v t (t.withRegs v) where
  written r hr := by simp [hf r] at hr
  kept r _ := ⟨State.reg_congr ht r, rfl⟩
  rest := rfl

theorem regsTracked_setReg {u : State} {x : RegIdx} {b : Byte} (hf : f.regs = onlyReg x) (ht : t.v = s.v)
    (hu : u = t.withRegs v) : RegsTracked f s v (t.setReg x b) (u.setReg x b) where
  written r hr := by
    obtain rfl : r = x := by simpa [hf, onlyReg] using hr
    simp
  kept r hr := by
    have hne : r ≠ x := by simpa [hf, onlyReg] using hr
    rw [State.reg_setReg_of_ne _ _ hne, State.reg_setReg_of_ne _ _ hne, hu]
    exact ⟨State.reg_congr ht r, rfl⟩
  rest := by rw [hu]; rfl

/-- Updates of the register file alone differ in it alone. -/
theorem withRegs_v_of_eq {t' u' : State} (ht : ∃ v', t' = { t with v := v' })
    (hu : ∃ v', u' = { t.withRegs v with v := v' }) : u'.withRegs t'.v = t' := by
  obtain ⟨_, rfl⟩ := ht
  obtain ⟨_, rfl⟩ := hu
  rfl

theorem regsTracked_writeFlagged {x : RegIdx} {a : AluResult} (hf : f.regs = regAndVF x) (ht : t.v = s.v) :
    RegsTracked f s v (t.writeFlagged x a) ((t.withRegs v).writeFlagged x a) where
  written r hr := by
    by_cases hx : r = x
    · rw [hx, State.reg_writeFlagged_dest, State.reg_writeFlagged_dest]
      rfl
    · obtain rfl : r = regVF := by simpa [hf, regAndVF, hx] using hr
      rw [State.reg_writeFlagged_flag _ _ _ (Ne.symm hx), State.reg_writeFlagged_flag _ _ _ (Ne.symm hx)]
  kept r hr := by
    obtain ⟨hx, hVF⟩ : r ≠ x ∧ r ≠ regVF := by simpa [hf, regAndVF] using hr
    rw [State.reg_writeFlagged_of_ne _ _ _ _ hx hVF, State.reg_writeFlagged_of_ne _ _ _ _ hx hVF]
    exact ⟨State.reg_congr ht r, rfl⟩
  rest := withRegs_v_of_eq (t.writeFlagged_eq x a) ((t.withRegs v).writeFlagged_eq x a)

theorem regsTracked_setFirstRegs {bs : List Byte} (hf : ∀ r, f.regs r = decide (r.val < bs.length)) (ht : t.v = s.v) :
    RegsTracked f s v (t.setFirstRegs bs) ((t.withRegs v).setFirstRegs bs) where
  written r hr := by
    have hlt : r.val < bs.length := by simpa [hf] using hr
    simp [State.reg_setFirstRegs, hlt]
  kept r hr := by
    have hle : bs.length ≤ r.val := by simpa [hf] using hr
    rw [State.reg_setFirstRegs, State.reg_setFirstRegs, List.getD_eq_default _ _ hle, List.getD_eq_default _ _ hle]
    exact ⟨State.reg_congr ht r, rfl⟩
  rest := withRegs_v_of_eq (t := t) (v := v) ⟨_, rfl⟩ ⟨_, rfl⟩

end

/-- `FX55` reads `V0` to `Vx` alone. -/
theorem firstRegs_withRegs {s : State} {v : Vector Byte 16} {x : RegIdx}
    (h : ∀ r : RegIdx, r.val ≤ x.val → (s.withRegs v).reg r = s.reg r) :
    (s.withRegs v).firstRegs x = s.firstRegs x := by
  refine List.ext_getElem (by simp) fun j hj hj' => ?_
  have hle : j ≤ x.val := by simpa [Nat.lt_succ_iff] using hj
  rw [State.getElem_firstRegs _ _ _ hle, State.getElem_firstRegs _ _ _ hle]
  exact h _ hle

theorem keyOperand_withRegs {s : State} {v : Vector Byte 16} {x : RegIdx} (h : (s.withRegs v).reg x = s.reg x) :
    (s.withRegs v).keyOperand x = s.keyOperand x := by
  unfold State.keyOperand
  rw [h]
  rfl

theorem spriteCanvas_withRegs {s : State} {v : Vector Byte 16} {x y : RegIdx} (n : Fin 16)
    (hx : (s.withRegs v).reg x = s.reg x) (hy : (s.withRegs v).reg y = s.reg y) :
    spriteCanvas x y n (s.withRegs v) = spriteCanvas x y n s := by
  unfold spriteCanvas
  rw [hx, hy]
  rfl

/-- The handler of `i` answers from `s` and from `s.withRegs v` by the same writes. -/
def ExecTracks (i : Instr) (s : State) (v : Vector Byte 16) : Prop :=
  ∃ t u, exec i s = .next t ∧ exec i (s.withRegs v) = .next u ∧ RegsTracked (footprint i s) s v t u

theorem execTracks_ret (s : State) (v : Vector Byte 16) : ExecTracks .ret s v := by
  have hf : ∀ r, (footprint .ret s).regs r = false := fun r => by simp only [footprint]; split <;> rfl
  by_cases h : s.sp.val = 0
  · exact ⟨_, _, execRet_of_empty h, execRet_of_empty (s := s.withRegs v) h, regsTracked_of_no_write hf rfl⟩
  · exact ⟨_, _, execRet_of_pos h, execRet_of_pos (s := s.withRegs v) h, regsTracked_of_no_write hf rfl⟩

theorem execTracks_call (nnn : Addr) (s : State) (v : Vector Byte 16) : ExecTracks (.call nnn) s v := by
  have hf : ∀ r, (footprint (.call nnn) s).regs r = false := fun r => by simp only [footprint]; split <;> rfl
  by_cases h : s.sp.val < 16
  · exact ⟨_, _, execCall_of_lt nnn h, execCall_of_lt (s := s.withRegs v) nnn h, regsTracked_of_no_write hf rfl⟩
  · have h : s.sp.val = 16 := by omega
    exact ⟨_, _, execCall_of_full nnn h, execCall_of_full (s := s.withRegs v) nnn h, regsTracked_of_no_write hf rfl⟩

theorem execTracks_ldVxK (x : RegIdx) (s : State) (v : Vector Byte 16) : ExecTracks (.ldVxK x) s v := by
  cases h : s.lowestKey with
  | none =>
    exact ⟨_, _, execLdVxK_of_none x h, execLdVxK_of_none (s := s.withRegs v) x h,
      regsTracked_of_no_write (by simp [footprint, h]) rfl⟩
  | some k =>
    exact ⟨_, _, execLdVxK_of_some x h, execLdVxK_of_some (s := s.withRegs v) x h,
      .advance (regsTracked_setReg (by simp [footprint, h]) rfl rfl)⟩

theorem exec_tracks {i : Instr} {s : State} {v : Vector Byte 16}
    (h : ∀ r : RegIdx, readRegs i r = true → (s.withRegs v).reg r = s.reg r) : ExecTracks i s v := by
  cases i with
  | ret => exact execTracks_ret s v
  | call nnn => exact execTracks_call nnn s v
  | ldVxK x => exact execTracks_ldVxK x s v
  | cls | sys | jp | ldI =>
    exact ⟨_, _, rfl, rfl, regsTracked_of_no_write (fun _ => rfl) rfl⟩
  | jpV0 nnn =>
    have hx := h 0 (by simp [readRegs])
    refine ⟨_, _, rfl, rfl, ?_⟩
    rw [State.regWord, State.regWord, regV0, hx]
    exact regsTracked_of_no_write (fun _ => rfl) rfl
  | seImm x | sneImm x | addI x | ldF x | ldB x | ldDTVx x | ldSTVx x =>
    have hx := h x (by simp [readRegs])
    refine ⟨_, _, rfl, rfl, ?_⟩
    simp only [State.regWord, hx]
    exact regsTracked_of_no_write (fun _ => rfl) rfl
  | skp x | sknp x =>
    have hx := h x (by simp [readRegs])
    refine ⟨_, _, rfl, rfl, ?_⟩
    rw [keyOperand_withRegs hx]
    exact regsTracked_of_no_write (fun _ => rfl) rfl
  | seReg x y | sneReg x y =>
    have hx := h x (by simp [readRegs])
    have hy := h y (by simp [readRegs])
    refine ⟨_, _, rfl, rfl, ?_⟩
    rw [hx, hy]
    exact regsTracked_of_no_write (fun _ => rfl) rfl
  | store x =>
    refine ⟨_, _, rfl, rfl, ?_⟩
    rw [firstRegs_withRegs fun r hr => h r (by simpa [readRegs] using hr)]
    exact regsTracked_of_no_write (fun _ => rfl) rfl
  | ldImm | ldVxDT | rnd =>
    exact ⟨_, _, rfl, rfl, .advance (regsTracked_setReg rfl rfl rfl)⟩
  | addImm x =>
    have hx := h x (by simp [readRegs])
    refine ⟨_, _, rfl, rfl, ?_⟩
    rw [hx]
    exact .advance (regsTracked_setReg rfl rfl rfl)
  | ldReg x y =>
    have hy := h y (by simp [readRegs])
    refine ⟨_, _, rfl, rfl, ?_⟩
    rw [hy]
    exact .advance (regsTracked_setReg rfl rfl rfl)
  | orReg x y | andReg x y | xorReg x y =>
    have hx := h x (by simp [readRegs])
    have hy := h y (by simp [readRegs])
    refine ⟨_, _, rfl, rfl, ?_⟩
    rw [hx, hy]
    exact .advance (regsTracked_setReg rfl rfl rfl)
  | addReg x y | subReg x y | subn x y =>
    have hx := h x (by simp [readRegs])
    have hy := h y (by simp [readRegs])
    refine ⟨_, _, rfl, rfl, ?_⟩
    rw [hx, hy]
    exact .advance (regsTracked_writeFlagged rfl rfl)
  | shr x | shl x =>
    have hx := h x (by simp [readRegs])
    refine ⟨_, _, rfl, rfl, ?_⟩
    rw [hx]
    exact .advance (regsTracked_writeFlagged rfl rfl)
  | drw x y n =>
    refine ⟨_, _, rfl, rfl, ?_⟩
    rw [spriteCanvas_withRegs n (h x (by simp [readRegs])) (h y (by simp [readRegs]))]
    exact .advance (regsTracked_setReg rfl rfl rfl)
  | load x =>
    refine ⟨_, _, rfl, rfl, (regsTracked_setFirstRegs (fun r => ?_) rfl).advance⟩
    simp [footprint, State.loadAtIndex]

/-- Settles O18. -/
theorem instructionsReadOnlyTheirOperands : Obligations.InstructionsReadOnlyTheirOperands := by
  intro i s v h
  obtain ⟨t, u, ht, hu, htracked⟩ := exec_tracks h
  exact ⟨t, u, ht, hu, htracked.sameButRegs, htracked.kept⟩

/-! ## What no STEP reads

A relation on states is blind when related states fetch alike and stay related through a fault and through the record of an
`Ok`. A STEP then keeps it as soon as the handler that runs does. -/

structure Blind (R : State → State → Prop) : Prop where
  halted : ∀ {s t}, R s t → t.halted = s.halted
  pc : ∀ {s t}, R s t → t.pc = s.pc
  fetch : ∀ {s t}, R s t → t.fetch = s.fetch
  takeFault : ∀ {s t}, R s t → ∀ f, R (s.takeFault f) (t.takeFault f)
  retire : ∀ {s t}, R s t → R s.retire t.retire

theorem Blind.closeStep_related {R : State → State → Prop} (hR : Blind R) {o p : Host.Outcome State Fault Refusal}
    (h : OutcomesRelated R o p) : OutcomesRelated R (closeStep o) (closeStep p) := by
  cases o <;> cases p
  case next.next s t =>
    rw [closeStep_next, closeStep_next, hR.halted h]
    split
    · exact h
    · exact hR.retire h
  all_goals exact h

theorem Blind.step_related {R : State → State → Prop} (hR : Blind R) {s t : State} (h : R s t)
    (hexec : ∀ i, Runs s i → OutcomesRelated R (exec i s) (exec i t)) : OutcomesRelated R (step s) (step t) := by
  have hhalted := hR.halted h
  have hpc := hR.pc h
  have hfetch := hR.fetch h
  cases hh : s.halted with
  | true =>
    rw [step_of_halted hh, step_of_halted (hhalted.trans hh)]
    exact rfl
  | false =>
    have hh' := hhalted.trans hh
    by_cases hp : 4094 < s.pc.toNat
    · have hp' : 4094 < t.pc.toNat := by rw [hpc]; exact hp
      rw [step_of_pc_out_of_range hh hp, step_of_pc_out_of_range hh' hp', hpc]
      exact hR.takeFault h _
    · have hp := Nat.not_lt.mp hp
      have hp' : t.pc.toNat ≤ 4094 := by rw [hpc]; exact hp
      cases hd : decode s.fetch with
      | error e =>
        rw [step_of_invalid hh hp hd, step_of_invalid hh' hp' ((congrArg decode hfetch).trans hd), hpc, hfetch]
        exact hR.takeFault h _
      | ok i =>
        rw [step_of_decoded hh hp hd, step_of_decoded hh' hp' ((congrArg decode hfetch).trans hd)]
        exact hR.closeStep_related (hexec i ⟨hh, hp, hd⟩)

/-- Outcomes related by "looks the same through `g`, `g'`" are equal through them. -/
theorem mapNext_eq_of_related {R : State → State → Prop} {g g' : State → State} (hg : ∀ s t, R s t → g' t = g s)
    {o p : Host.Outcome State Fault Refusal} (h : OutcomesRelated R o p) : mapNext g' p = mapNext g o := by
  cases o <;> cases p
  case next.next s t => exact congrArg Host.Outcome.next (hg s t h)
  case fault.fault => exact congrArg Host.Outcome.fault (Eq.symm h)
  case refused.refused => exact congrArg Host.Outcome.refused (Eq.symm h)
  all_goals exact h.elim

/-! ### The fields that only `00EE`, `2NNN` and `FX18` touch -/

/-- `s` with the stack, `SP`, the sound timer and the two observations of `d`. -/
def State.withRarelyUsed (s d : State) : State :=
  { s with sp := d.sp, stack := d.stack, st := d.st, lastOutcome := d.lastOutcome, executed := d.executed }

/-- The instructions that read or write one of those fields. -/
def usesRarelyUsed : Instr → Bool
  | .ret | .call _ | .ldSTVx _ => true
  | _ => false

theorem State.writeFlagged_withRarelyUsed (s d : State) (x : RegIdx) (r : AluResult) :
    (s.withRarelyUsed d).writeFlagged x r = (s.writeFlagged x r).withRarelyUsed d := by
  change (if s.params.flagLast then _ else _) = (if s.params.flagLast then _ else _ : State).withRarelyUsed d
  split <;> rfl

theorem State.setFirstRegs_withRarelyUsed (s d : State) (bs : List Byte) :
    (s.withRarelyUsed d).setFirstRegs bs = (s.setFirstRegs bs).withRarelyUsed d := rfl

theorem execLdVxK_withRarelyUsed (x : RegIdx) (s d : State) :
    execLdVxK x (s.withRarelyUsed d) = mapNext (·.withRarelyUsed d) (execLdVxK x s) := by
  cases h : s.lowestKey with
  | none => rw [execLdVxK_of_none x h, execLdVxK_of_none (s := s.withRarelyUsed d) x h]; rfl
  | some k => rw [execLdVxK_of_some x h, execLdVxK_of_some (s := s.withRarelyUsed d) x h]; rfl

/-- The other handlers carry those fields along. -/
theorem exec_withRarelyUsed {i : Instr} (hi : usesRarelyUsed i = false) (s d : State) :
    exec i (s.withRarelyUsed d) = mapNext (·.withRarelyUsed d) (exec i s) := by
  cases i with
  | ret | call | ldSTVx => cases hi
  | ldVxK x => exact execLdVxK_withRarelyUsed x s d
  | addReg | subReg | shr | subn | shl =>
    exact congrArg (fun t => Host.Outcome.next t.advance) (s.writeFlagged_withRarelyUsed d ..)
  | cls | sys | jp | seImm | sneImm | seReg | ldImm | addImm | ldReg | orReg | andReg | xorReg | sneReg | ldI | jpV0 | rnd
  | drw | skp | sknp | ldVxDT | ldDTVx | addI | ldF | ldB | store => rfl
  | load =>
    exact congrArg (fun t => Host.Outcome.next t.advance) (s.setFirstRegs_withRarelyUsed d _)

/-- So one state tells what such a handler answers, whatever those fields hold. -/
theorem exists_exec_withRarelyUsed {i : Instr} (hi : usesRarelyUsed i = false) (s : State) :
    ∃ u : State, ∀ d, exec i (s.withRarelyUsed d) = .next (u.withRarelyUsed d) := by
  obtain ⟨u, hu, -⟩ := exec_completes_or_faults i s
  exact ⟨u, fun d => by rw [exec_withRarelyUsed hi, hu]; rfl⟩

/-- `s` with the sound timer and the two observations rewritten: what even `00EE` and `2NNN` do not read. -/
def State.mapRecords (s : State) (st : Byte → Byte) (o : Option StepOutcome → Option StepOutcome) (n : Nat → Nat) : State :=
  { s with st := st s.st, lastOutcome := o s.lastOutcome, executed := n s.executed }

section
variable {R : State → State → Prop} {st : Byte → Byte} {o : Option StepOutcome → Option StepOutcome} {n : Nat → Nat}

theorem Blind.execRet_related (hR : Blind R) (h : ∀ u : State, R u (u.mapRecords st o n)) (s : State) :
    OutcomesRelated R (execRet s) (execRet (s.mapRecords st o n)) := by
  by_cases hsp : s.sp.val = 0
  · rw [execRet_of_empty hsp, execRet_of_empty (s := s.mapRecords st o n) hsp]
    exact hR.takeFault (h s) _
  · rw [execRet_of_pos hsp, execRet_of_pos (s := s.mapRecords st o n) hsp]
    exact h _

theorem Blind.execCall_related (hR : Blind R) (h : ∀ u : State, R u (u.mapRecords st o n)) (nnn : Addr) (s : State) :
    OutcomesRelated R (execCall nnn s) (execCall nnn (s.mapRecords st o n)) := by
  by_cases hsp : s.sp.val < 16
  · rw [execCall_of_lt nnn hsp, execCall_of_lt (s := s.mapRecords st o n) nnn hsp]
    exact h _
  · have hsp : s.sp.val = 16 := by omega
    rw [execCall_of_full nnn hsp, execCall_of_full (s := s.mapRecords st o n) nnn hsp]
    exact hR.takeFault (h s) _

/-- A blind relation that holds between every state and its rewriting is kept by every handler but perhaps `FX18`'s. -/
theorem Blind.exec_related (hR : Blind R) (h : ∀ u : State, R u (u.mapRecords st o n)) {i : Instr} {s : State}
    (hST : ∀ x, i = .ldSTVx x → OutcomesRelated R (exec i s) (exec i (s.mapRecords st o n))) :
    OutcomesRelated R (exec i s) (exec i (s.mapRecords st o n)) := by
  cases hi : usesRarelyUsed i with
  | false =>
    obtain ⟨u, hu⟩ := exists_exec_withRarelyUsed hi s
    have hs : exec i s = _ := hu s
    rw [hs, show exec i (s.mapRecords st o n) = _ from hu (s.mapRecords st o n)]
    exact h (u.withRarelyUsed s)
  | true =>
    cases i with
    | ret => exact hR.execRet_related h s
    | call nnn => exact hR.execCall_related h nnn s
    | ldSTVx x => exact hST x rfl
    | _ => cases hi

end

/-! ### The sound timer (R31) -/

theorem blind_setST (b : Byte) : Blind fun s t => t = s.setST b where
  halted := by rintro s _ rfl; rfl
  pc := by rintro s _ rfl; rfl
  fetch := by rintro s _ rfl; rfl
  takeFault := by rintro s _ rfl f; rfl
  retire := by rintro s _ rfl; rfl

theorem mapNext_id (o : Host.Outcome State Fault Refusal) : mapNext id o = o := by cases o <;> rfl

/-- A STEP that runs no `FX18` carries the sound timer along. -/
theorem step_setST {s : State} (h : ∀ x, ¬ Runs s (.ldSTVx x)) (b : Byte) :
    step (s.setST b) = mapNext (fun t => t.setST b) (step s) := by
  rw [← mapNext_id (step (s.setST b))]
  refine mapNext_eq_of_related (fun _ _ h => h) ((blind_setST b).step_related (s := s) rfl fun i hi => ?_)
  refine (blind_setST b).exec_related (st := fun _ => b) (o := id) (n := id) (fun _ => rfl) fun x hx => ?_
  exact absurd (hx ▸ hi) (h x)

/-- `FX18` replaces the sound timer. -/
theorem step_setST_of_runs_ldSTVx {s : State} {x : RegIdx} (h : Runs s (.ldSTVx x)) (b : Byte) :
    step (s.setST b) = step s := by
  obtain ⟨hh, hp, hd⟩ := h
  rw [step_of_decoded hh hp hd, step_of_decoded (s := s.setST b) hh hp hd]
  rfl

theorem invoke_setST {op : HostOp} (hop : op ≠ .step) (s : State) (b : Byte) :
    (invoke op (s.setST b)).1.setST 0 = (invoke op s).1.setST 0 := by
  cases op with
  | step => exact absurd rfl hop
  | tick | reset | display | delay | sound => rfl
  | setKey k pressed =>
    rw [invoke_setKey_fst, invoke_setKey_fst]
    split <;> rfl
  | load image =>
    rw [invoke_load_fst, invoke_load_fst]
    split <;> rfl

/-- Settles O19. -/
theorem soundTimerAffectsNothing : Obligations.SoundTimerAffectsNothing := by
  refine ⟨fun s b => ?_, fun op s b hop => invoke_setST hop s b⟩
  by_cases h : ∃ x, Runs s (.ldSTVx x)
  · obtain ⟨x, hx⟩ := h
    have ⟨_, _, hd⟩ := hx
    exact .inr ⟨x, hd, step_setST_of_runs_ldSTVx hx b⟩
  · exact .inl (step_setST (not_exists.mp h) b)

/-! ### The recorded outcome and the instruction counter (R35, R36) -/

/-- `t` is `s` up to the two observations. -/
def SameUpToDiagnostics (s t : State) : Prop := ∃ o k, t = s.withDiagnostics o k

theorem blind_sameUpToDiagnostics : Blind SameUpToDiagnostics where
  halted := by rintro s _ ⟨o, k, rfl⟩; rfl
  pc := by rintro s _ ⟨o, k, rfl⟩; rfl
  fetch := by rintro s _ ⟨o, k, rfl⟩; rfl
  takeFault := by rintro s _ ⟨o, k, rfl⟩ f; exact ⟨some (.fault f), k, rfl⟩
  retire := by rintro s _ ⟨o, k, rfl⟩; exact ⟨some .ok, k + 1, rfl⟩

/-- Settles O20. -/
theorem diagnosticsAffectNothing : Obligations.DiagnosticsAffectNothing := by
  intro s o k
  refine mapNext_eq_of_related ?_ (blind_sameUpToDiagnostics.step_related (s := s) ⟨o, k, rfl⟩ fun i _ => ?_)
  · rintro u _ ⟨o', k', rfl⟩
    rfl
  · refine blind_sameUpToDiagnostics.exec_related (st := id) (o := fun _ => o) (n := fun _ => k) (fun _ => ⟨o, k, rfl⟩) ?_
    rintro x rfl
    exact ⟨o, k, rfl⟩

/-! ### Stale stack entries (R29) -/

theorem sameUpToStale_iff {s t : State} :
    SameUpToStale s t ↔ ∃ stack : Vector Word 16,
      (∀ k : Fin 16, k.val < s.sp.val → stack[k] = s.stack[k]) ∧ t = { s with stack } := by
  constructor
  · rintro ⟨hlive, hrest⟩
    refine ⟨t.stack, hlive, ?_⟩
    rw [← hrest]
  · rintro ⟨stack, hlive, rfl⟩
    exact ⟨hlive, rfl⟩

theorem blind_sameUpToStale : Blind SameUpToStale where
  halted h := by obtain ⟨_, -, rfl⟩ := sameUpToStale_iff.mp h; rfl
  pc h := by obtain ⟨_, -, rfl⟩ := sameUpToStale_iff.mp h; rfl
  fetch h := by obtain ⟨_, -, rfl⟩ := sameUpToStale_iff.mp h; rfl
  takeFault h f := by
    obtain ⟨stack, hlive, rfl⟩ := sameUpToStale_iff.mp h
    exact sameUpToStale_iff.mpr ⟨stack, hlive, rfl⟩
  retire h := by
    obtain ⟨stack, hlive, rfl⟩ := sameUpToStale_iff.mp h
    exact sameUpToStale_iff.mpr ⟨stack, hlive, rfl⟩

section
variable {s : State} {stack : Vector Word 16} (hlive : ∀ k : Fin 16, k.val < s.sp.val → stack[k] = s.stack[k])
include hlive

/-- A return reads the entry below `SP`, which is live. -/
theorem execRet_related_of_stale :
    OutcomesRelated SameUpToStale (execRet s) (execRet { s with stack }) := by
  by_cases h : s.sp.val = 0
  · rw [execRet_of_empty h, execRet_of_empty (s := { s with stack }) h]
    exact sameUpToStale_iff.mpr ⟨stack, hlive, rfl⟩
  · have htop := hlive ⟨s.sp.val - 1, by omega⟩ (by simp; omega)
    rw [execRet_of_pos h, execRet_of_pos (s := { s with stack }) h]
    refine sameUpToStale_iff.mpr ⟨stack, fun k hk => hlive k ?_, ?_⟩
    · exact Nat.lt_of_lt_of_le hk (Nat.sub_le _ _)
    · exact congrArg (State.setPc { s with stack, sp := _ }) htop

/-- A call makes the entry at `SP` live and writes it. -/
theorem execCall_related_of_stale (nnn : Addr) :
    OutcomesRelated SameUpToStale (execCall nnn s) (execCall nnn { s with stack }) := by
  by_cases h : s.sp.val < 16
  · rw [execCall_of_lt nnn h, execCall_of_lt (s := { s with stack }) nnn h]
    refine sameUpToStale_iff.mpr ⟨stack.set s.sp.val (s.pc + 2) h, fun k hk => ?_, rfl⟩
    simp only [State.setPc_stack, Fin.getElem_fin, Vector.getElem_set]
    split
    · rfl
    · exact hlive k (by simp at hk; omega)
  · have h : s.sp.val = 16 := by omega
    rw [execCall_of_full nnn h, execCall_of_full (s := { s with stack }) nnn h]
    exact sameUpToStale_iff.mpr ⟨stack, hlive, rfl⟩

theorem exec_related_of_stale (i : Instr) :
    OutcomesRelated SameUpToStale (exec i s) (exec i { s with stack }) := by
  cases hi : usesRarelyUsed i with
  | false =>
    obtain ⟨u, hu⟩ := exists_exec_withRarelyUsed hi s
    have hs : exec i s = _ := hu s
    rw [hs, show exec i { s with stack } = _ from hu { s with stack }]
    exact sameUpToStale_iff.mpr ⟨stack, hlive, rfl⟩
  | true =>
    cases i with
    | ret => exact execRet_related_of_stale hlive
    | call nnn => exact execCall_related_of_stale hlive nnn
    | ldSTVx x => exact sameUpToStale_iff.mpr ⟨stack, hlive, rfl⟩
    | _ => cases hi

end

/-- Settles O21. -/
theorem staleStackEntriesAreNeverRead : Obligations.StaleStackEntriesAreNeverRead := by
  intro s t h
  obtain ⟨stack, hlive, rfl⟩ := sameUpToStale_iff.mp h
  exact blind_sameUpToStale.step_related h fun i _ => exec_related_of_stale hlive i

end Sys2Proof.Machine
end

section
/-! PROOFS of the family 20_memory: a read gives the most recent write (O42), and a byte stored by `FX55` is seen by the
very next fetch (O43). -/

namespace Sys2Proof.Machine

/-! ## Sequences of writes -/

/-- The memory after a sequence of writes, most recent first. -/
def Memory.writeAll (m : Memory) (writes : List (Nat × Byte)) : Memory :=
  writes.foldr (fun w m => Memory.write m w.1 w.2) m

@[simp] theorem Memory.writeAll_cons (m : Memory) (w : Nat × Byte) (writes : List (Nat × Byte)) :
    Memory.writeAll m (w :: writes) = Memory.write (Memory.writeAll m writes) w.1 w.2 := rfl

/-- Any sequence of writes keeps the canonical form. -/
theorem Memory.wf_writeAll {m : Memory} (h : Memory.wf m) (writes : List (Nat × Byte)) :
    Memory.wf (Memory.writeAll m writes) := by
  induction writes with
  | nil => exact h
  | cons w writes ih => exact Memory.wf_write ih _ _

/-- Settles O42, by induction on the writes: the latest one gives the byte at its own address modulo 4096, and every other
address reads as it did before it. -/
theorem mostRecentWriteIsRead : Obligations.MostRecentWriteIsRead := by
  intro writes a
  change Memory.read (Memory.writeAll [] writes) a = _
  induction writes with
  | nil => exact Memory.read_nil a
  | cons w writes ih =>
    rw [Memory.writeAll_cons, Memory.read_write (Memory.wf_writeAll Memory.wf_nil writes)]
    by_cases h : w.1 % 4096 = a % 4096
    · have hw : Memory.wrap a = Memory.wrap w.1 := h.symm
      rw [if_pos hw, List.find?_cons_of_pos (by simpa using h)]
    · have hw : Memory.wrap a ≠ Memory.wrap w.1 := Ne.symm h
      rw [if_neg hw, List.find?_cons_of_neg (by simpa using h), ih]

/-! ## Stored registers as code -/

/-- `V[j]` for each `j` up to `x` is found where `FX55` puts it (R214). -/
theorem State.byteAt_storeAtIndex_firstRegs {s : State} (h : Memory.wf s.mem) (x j : RegIdx) (hj : j ≤ x) :
    (s.storeAtIndex (s.firstRegs x)).byteAt (s.index.toNat + j.val) = s.reg j := by
  have hlen : (s.firstRegs x).length ≤ Config.memSize := by
    rw [State.length_firstRegs]; simp only [Config.memSize]; omega
  have hread := Memory.read_writeFrom h s.index.toNat 0 (s.firstRegs x) hlen j.val (by simpa using Nat.lt_succ_of_le hj)
  rw [State.getElem_firstRegs s x j.val hj] at hread
  exact hread

/-- The fetched word is its two bytes, the first one high (R91). -/
theorem State.toNat_fetch (s : State) :
    s.fetch.toNat = (s.byteAt s.pc.toNat).toNat * 256 + (s.byteAt (s.pc.toNat + 1)).toNat := by
  have hhi := (s.byteAt s.pc.toNat).isLt
  have hlo := (s.byteAt (s.pc.toNat + 1)).isLt
  rw [State.fetch, Word.ofBytes, BitVec.toNat_ofNat]
  exact Nat.mod_eq_of_lt (by omega)

theorem State.byteAt_advance (s : State) (a : Nat) : s.advance.byteAt a = s.byteAt a := rfl

/-- Settles O43: the advance leaves `pc` at the old `I`, so the two bytes fetched are the first two stored. -/
theorem storedCodeIsFetchedNext : Obligations.StoredCodeIsFetchedNext := by
  intro x s t hm hx _ hi ht
  obtain rfl : (s.storeAtIndex (s.firstRegs x)).advance = t := Host.Outcome.next.inj ht
  have hpc : (s.storeAtIndex (s.firstRegs x)).advance.pc = s.index := hi.symm
  have h0 : (s.storeAtIndex (s.firstRegs x)).byteAt s.index.toNat = s.reg 0 :=
    State.byteAt_storeAtIndex_firstRegs hm x 0 (Nat.zero_le _)
  have h1 : (s.storeAtIndex (s.firstRegs x)).byteAt (s.index.toNat + 1) = s.reg 1 :=
    State.byteAt_storeAtIndex_firstRegs hm x 1 hx
  rw [State.toNat_fetch, hpc, State.byteAt_advance, State.byteAt_advance, h0, h1]

end Sys2Proof.Machine
end

section
/-! PROOFS of the family 30_encoding: decode and encode are inverse (O2, O3), the decoder is the opcode map (O4), the
invalid words (O5), the spec's own words (O1), and STEP as the handler of the decoded instruction (O6). -/

namespace Sys2Proof

/-! ## Encode, then decode -/

theorem encodeNNN_inj {g : Nat} (hg : g < 16) {nnn a : Addr} : encodeNNN g nnn = encodeNNN g a ↔ nnn = a :=
  ⟨fun h => by rw [← Word.fieldNNN_encodeNNN hg nnn, h, Word.fieldNNN_encodeNNN hg], fun h => h ▸ rfl⟩

/-- `0NNN` is well formed exactly when its word is not one of the two that R95 excludes. -/
theorem sys_wellFormed_iff {nnn : Addr} :
    (Instr.sys nnn).wellFormed = true ↔ encodeNNN 0 nnn ≠ 0x00E0 ∧ encodeNNN 0 nnn ≠ 0x00EE := by
  rw [show (0x00E0 : Word) = encodeNNN 0 0x0E0 from rfl, show (0x00EE : Word) = encodeNNN 0 0x0EE from rfl]
  simp [Instr.wellFormed, encodeNNN_inj]

/-- The two excluded words are the only ones of group 0 with another meaning (R94). -/
theorem decodeGroup0_encodeNNN {nnn : Addr} (h : (Instr.sys nnn).wellFormed = true) :
    decodeGroup0 (encodeNNN 0 nnn) = .sys nnn := by
  obtain ⟨hcls, hret⟩ := sys_wellFormed_iff.mp h
  rw [decodeGroup0, if_neg hcls, if_neg hret, Word.fieldNNN_encodeNNN (by decide)]

@[simp] theorem Word.fieldNN_encodeXNN {g : Nat} (hg : g < 16) (x : RegIdx) (nn : Byte) :
    Word.fieldNN (encodeXNN g x nn.toNat) = nn :=
  BitVec.eq_of_toNat_eq (Word.toNat_fieldNN_encodeXNN hg nn.isLt x)

@[simp] theorem Word.fieldN_encodeXYN {g : Nat} (hg : g < 16) (x y : RegIdx) (n : Fin 16) :
    Word.fieldN (encodeXYN g x y n.val) = n :=
  Fin.ext (Word.val_fieldN_encodeXYN hg n.isLt x y)

/-- A well-formed instruction is read back from its word: the fields of the word are the operands, and group and
secondary field select the instruction's own arm (R94, R95). -/
theorem decode_encode {i : Instr} (h : i.wellFormed = true) : decode (encode i) = .ok i := by
  cases i with
  | cls | ret => rfl
  | sys nnn => simp [encode, decode, Word.fieldG_encodeNNN, decodeGroup0_encodeNNN h]
  | jp nnn | call nnn | ldI nnn | jpV0 nnn =>
    simp [encode, decode, Word.fieldG_encodeNNN, Word.fieldNNN_encodeNNN]
  | seImm x nn | sneImm x nn | ldImm x nn | addImm x nn | rnd x nn =>
    simp [encode, decode, Word.fieldG_encodeXNN, Word.fieldX_encodeXNN, nn.isLt]
  | seReg x y | sneReg x y =>
    simp [encode, decode, Word.fieldG_encodeXYN, Word.fieldX_encodeXYN, Word.fieldY_encodeXYN, Word.val_fieldN_encodeXYN]
  | ldReg x y | orReg x y | andReg x y | xorReg x y | addReg x y | subReg x y | shr x y | subn x y | shl x y =>
    simp [encode, decode, decodeGroup8, Word.fieldG_encodeXYN, Word.fieldX_encodeXYN, Word.fieldY_encodeXYN,
      Word.val_fieldN_encodeXYN]
  | drw x y n =>
    simp [encode, decode, Word.fieldG_encodeXYN, Word.fieldX_encodeXYN, Word.fieldY_encodeXYN]
  | skp x | sknp x =>
    simp [encode, decode, decodeGroupE, Word.fieldG_encodeXNN, Word.fieldX_encodeXNN, Word.toNat_fieldNN_encodeXNN]
  | ldVxDT x | ldVxK x | ldDTVx x | ldSTVx x | addI x | ldF x | ldB x | store x | load x =>
    simp [encode, decode, decodeGroupF, Word.fieldG_encodeXNN, Word.fieldX_encodeXNN, Word.toNat_fieldNN_encodeXNN]

/-- Two bytes of a valid word are consumed and the rest is left (R66, R90). -/
theorem decodeBytes_append {w : Word} {i : Instr} (h : decode w = .ok i) (rest : List Byte) :
    decodeBytes ([Word.hiByte w, Word.loByte w] ++ rest) = .ok (i, rest) := by
  simp [decodeBytes, h]

/-- Settles O2, by `decode_encode` for the word and the order of its bytes (R66). -/
theorem decodeOfEncodeIsTheInstruction : Obligations.DecodeOfEncodeIsTheInstruction :=
  fun _ h => ⟨decode_encode h, decodeBytes_append (decode_encode h)⟩

/-! ## Decode, then encode -/

/-- A word of shape `W16-NNN` from its fields. -/
theorem encodeNNN_fields {w : Word} {g : Nat} (hg : Word.fieldG w = g) : encodeNNN g (Word.fieldNNN w) = w := by
  subst hg
  exact BitVec.eq_of_toNat_eq ((Word.toNat_encodeNNN w.fieldG_lt _).trans w.toNat_eq_nnn.symm)

/-- A word of shape `W16-XNN` or `W16-X` from its fields. -/
theorem encodeXNN_fields {w : Word} {g nn : Nat} (hg : Word.fieldG w = g) (hn : (Word.fieldNN w).toNat = nn) :
    encodeXNN g (Word.fieldX w) nn = w := by
  subst hg hn
  exact BitVec.eq_of_toNat_eq ((Word.toNat_encodeXNN w.fieldG_lt w.fieldNN.isLt _).trans w.toNat_eq_xnn.symm)

/-- A word of shape `W16-XYN`, `W16-XY0` or `W16-XYS` from its fields. -/
theorem encodeXYN_fields {w : Word} {g n : Nat} (hg : Word.fieldG w = g) (hn : (Word.fieldN w).val = n) :
    encodeXYN g (Word.fieldX w) (Word.fieldY w) n = w := by
  subst hg hn
  exact BitVec.eq_of_toNat_eq ((Word.toNat_encodeXYN w.fieldG_lt w.fieldN.isLt _ _).trans w.toNat_eq_nibbles.symm)

/-- The instruction is well formed and its word is `w`. -/
def Instr.IsWord (i : Instr) (w : Word) : Prop := i.wellFormed = true ∧ encode i = w

theorem isWord_decodeGroup0 {w : Word} (hg : Word.fieldG w = 0) : (decodeGroup0 w).IsWord w := by
  unfold decodeGroup0
  split
  next hcls => exact ⟨rfl, hcls.symm⟩
  split
  next hret => exact ⟨rfl, hret.symm⟩
  next hcls hret =>
    have hw : encodeNNN 0 (Word.fieldNNN w) = w := encodeNNN_fields hg
    exact ⟨sys_wellFormed_iff.mpr (hw.symm ▸ ⟨hcls, hret⟩), hw⟩

theorem isWord_of_decodeGroup8 {w : Word} {i : Instr} (hg : Word.fieldG w = 8) (h : decodeGroup8 w = .ok i) : i.IsWord w := by
  unfold decodeGroup8 at h
  split at h
  case h_10 => cases h
  all_goals
    cases h
    exact ⟨rfl, encodeXYN_fields hg ‹_›⟩

theorem isWord_of_decodeGroupE {w : Word} {i : Instr} (hg : Word.fieldG w = 0xE) (h : decodeGroupE w = .ok i) : i.IsWord w := by
  unfold decodeGroupE at h
  split at h
  case h_3 => cases h
  all_goals
    cases h
    exact ⟨rfl, encodeXNN_fields hg ‹_›⟩

theorem isWord_of_decodeGroupF {w : Word} {i : Instr} (hg : Word.fieldG w = 0xF) (h : decodeGroupF w = .ok i) : i.IsWord w := by
  unfold decodeGroupF at h
  split at h
  case h_10 => cases h
  all_goals
    cases h
    exact ⟨rfl, encodeXNN_fields hg ‹_›⟩

/-- A word that decodes is the word of the instruction it decodes to, group by group (R94). -/
theorem isWord_of_decode {w : Word} {i : Instr} (h : decode w = .ok i) : i.IsWord w := by
  have hlt := Word.fieldG_lt w
  unfold decode at h
  split at h
  case h_1 hg => cases h; exact isWord_decodeGroup0 hg
  case h_9 hg => exact isWord_of_decodeGroup8 hg h
  case h_15 hg => exact isWord_of_decodeGroupE hg h
  case h_16 => exact isWord_of_decodeGroupF (by grind) h
  case h_6 hg | h_10 hg =>
    split at h
    next hn => cases h; exact ⟨rfl, encodeXYN_fields hg hn⟩
    next => cases h
  case h_14 hg => cases h; exact ⟨rfl, encodeXYN_fields hg rfl⟩
  case h_2 hg | h_3 hg | h_11 hg | h_12 hg => cases h; exact ⟨rfl, encodeNNN_fields hg⟩
  case h_4 hg | h_5 hg | h_7 hg | h_8 hg | h_13 hg => cases h; exact ⟨rfl, encodeXNN_fields hg rfl⟩

/-- Settles O3, by the inversion of the decoder. -/
theorem decodedWordsEncodeBack : Obligations.DecodedWordsEncodeBack :=
  fun _ _ => isWord_of_decode

/-! ## The opcode map -/

/-- A mask that keeps the group and the low `k` bits. -/
theorem Word.toNat_and_mask (w : Word) {k : Nat} (hk : k ≤ 12) :
    w.toNat &&& (0xF000 + (2 ^ k - 1)) = Word.fieldG w * 0x1000 + Word.bits w 0 k := by
  have hle : 2 ^ k - 1 < 2 ^ 12 := Nat.sub_one_lt_of_le (Nat.two_pow_pos k) (Nat.pow_le_pow_right (by decide) hk)
  have hdiv : (0xF000 + (2 ^ k - 1)) / 2 ^ 12 = 2 ^ 4 - 1 := by
    rw [show 0xF000 = 2 ^ 12 * 0xF from rfl, Nat.mul_add_div (by decide), Nat.div_eq_of_lt hle]; rfl
  have hmod : (0xF000 + (2 ^ k - 1)) % 2 ^ 12 = 2 ^ k - 1 := (Nat.mul_add_mod (2 ^ 12) 0xF _).trans (Nat.mod_eq_of_lt hle)
  rw [← Nat.div_add_mod (w.toNat &&& _) (2 ^ 12), Nat.and_div_two_pow, Nat.and_mod_two_pow, hdiv, hmod,
    Nat.and_two_pow_sub_one_eq_mod, Nat.and_two_pow_sub_one_eq_mod, Nat.mod_mod_of_dvd _ (Nat.pow_dvd_pow 2 hk),
    Nat.mul_comm, Word.fieldG, Word.bits, Word.bits, Nat.pow_zero, Nat.div_one]
  rfl

/-- What a row asks of a word whose mask keeps the group and the low `len` bits. -/
theorem OpcodeRow.covers_iff {k len : Nat} {v m : Word} {ex : List Word} {w : Word} (hlen : len ≤ 12)
    (hm : m.toNat = 0xF000 + (2 ^ len - 1)) :
    OpcodeRow.covers ⟨k, v, m, ex⟩ w = true ↔ Word.fieldG w * 0x1000 + Word.bits w 0 len = v.toNat ∧ w ∉ ex := by
  rw [← Word.toNat_and_mask w hlen, ← hm]
  simp [OpcodeRow.covers, ← BitVec.toNat_inj]

section
variable {k g n : Nat} {v w : Word} {ex : List Word}

/-- A row that fixes the whole word. -/
theorem OpcodeRow.covers_FFFF : OpcodeRow.covers ⟨k, v, 0xFFFF, []⟩ w = true ↔ w = v := by
  rw [OpcodeRow.covers_iff (len := 12) (by decide) rfl, ← BitVec.toNat_inj, Word.toNat_eq_nnn w]
  simp [Word.fieldNNN, Word.bits]

/-- A row that fixes the group. -/
theorem OpcodeRow.covers_F000 (hv : v.toNat = g * 0x1000) :
    OpcodeRow.covers ⟨k, v, 0xF000, ex⟩ w = true ↔ Word.fieldG w = g ∧ w ∉ ex := by
  rw [OpcodeRow.covers_iff (len := 0) (by decide) rfl, hv]
  simp [Word.bits, Nat.mod_one]

/-- A row that fixes the group and `n`. -/
theorem OpcodeRow.covers_F00F (hv : v.toNat = g * 0x1000 + n) (hn : n < 0x10) :
    OpcodeRow.covers ⟨k, v, 0xF00F, []⟩ w = true ↔ Word.fieldG w = g ∧ (Word.fieldN w).val = n := by
  rw [OpcodeRow.covers_iff (len := 4) (by decide) rfl, hv]
  simp only [Word.fieldN, Word.bits, Fin.val_ofNat, List.not_mem_nil, not_false_eq_true, and_true]
  omega

/-- A row that fixes the group and `nn`. -/
theorem OpcodeRow.covers_F0FF (hv : v.toNat = g * 0x1000 + n) (hn : n < 0x100) :
    OpcodeRow.covers ⟨k, v, 0xF0FF, []⟩ w = true ↔ Word.fieldG w = g ∧ (Word.fieldNN w).toNat = n := by
  rw [OpcodeRow.covers_iff (len := 8) (by decide) rfl, hv]
  simp only [Word.fieldNN, Word.bits, BitVec.toNat_ofNat, List.not_mem_nil, not_false_eq_true, and_true]
  omega

theorem encodeNNN_of_covers (h : OpcodeRow.covers ⟨k, v, 0xF000, ex⟩ w = true) (hv : v.toNat = g * 0x1000) :
    encodeNNN g (Word.fieldNNN w) = w :=
  encodeNNN_fields ((OpcodeRow.covers_F000 hv).mp h).1

theorem encodeXNN_of_covers_F000 (h : OpcodeRow.covers ⟨k, v, 0xF000, ex⟩ w = true) (hv : v.toNat = g * 0x1000) :
    encodeXNN g (Word.fieldX w) (Word.fieldNN w).toNat = w :=
  encodeXNN_fields ((OpcodeRow.covers_F000 hv).mp h).1 rfl

theorem encodeXYN_of_covers_F000 (h : OpcodeRow.covers ⟨k, v, 0xF000, ex⟩ w = true) (hv : v.toNat = g * 0x1000) :
    encodeXYN g (Word.fieldX w) (Word.fieldY w) (Word.fieldN w).val = w :=
  encodeXYN_fields ((OpcodeRow.covers_F000 hv).mp h).1 rfl

theorem encodeXYN_of_covers (h : OpcodeRow.covers ⟨k, v, 0xF00F, []⟩ w = true) (hv : v.toNat = g * 0x1000 + n)
    (hn : n < 0x10) : encodeXYN g (Word.fieldX w) (Word.fieldY w) n = w :=
  have ⟨hgroup, hlow⟩ := (OpcodeRow.covers_F00F hv hn).mp h
  encodeXYN_fields hgroup hlow

theorem encodeXNN_of_covers (h : OpcodeRow.covers ⟨k, v, 0xF0FF, []⟩ w = true) (hv : v.toNat = g * 0x1000 + n)
    (hn : n < 0x100) : encodeXNN g (Word.fieldX w) n = w :=
  have ⟨hgroup, hlow⟩ := (OpcodeRow.covers_F0FF hv hn).mp h
  encodeXNN_fields hgroup hlow

end

theorem decodes_to_row {i : Instr} {w : Word} (he : encode i = w) (hi : i.wellFormed = true) :
    ∃ j, decode w = .ok j ∧ j.rowNumber = i.rowNumber :=
  ⟨i, he ▸ decode_encode hi, rfl⟩

/-- A word that a row covers decodes to that row's instruction, with the word's fields as operands. -/
theorem exists_decode_of_covers {r : OpcodeRow} {w : Word} (hr : r ∈ opcodeTable) (h : r.covers w = true) :
    ∃ i, decode w = .ok i ∧ i.rowNumber = r.number := by
  simp only [opcodeTable, opcodeRowsA, opcodeRowsB, opcodeRowsC, List.cons_append, List.nil_append, List.mem_cons,
    List.not_mem_nil, or_false] at hr
  obtain rfl | rfl | rfl | rfl | rfl | rfl | rfl | rfl | rfl | rfl | rfl | rfl | rfl | rfl | rfl | rfl | rfl | rfl | rfl |
    rfl | rfl | rfl | rfl | rfl | rfl | rfl | rfl | rfl | rfl | rfl | rfl | rfl | rfl | rfl | rfl := hr
  · exact decodes_to_row (i := .cls) (OpcodeRow.covers_FFFF.mp h).symm rfl
  · exact decodes_to_row (i := .ret) (OpcodeRow.covers_FFFF.mp h).symm rfl
  · have hw : encodeNNN 0 (Word.fieldNNN w) = w := encodeNNN_of_covers h rfl
    have hex : w ∉ [0x00E0, 0x00EE] := ((OpcodeRow.covers_F000 (g := 0) (by rfl)).mp h).2
    refine decodes_to_row (i := .sys _) hw (sys_wellFormed_iff.mpr ?_)
    simpa [hw] using hex
  · exact decodes_to_row (i := .jp _) (encodeNNN_of_covers h rfl) rfl
  · exact decodes_to_row (i := .call _) (encodeNNN_of_covers h rfl) rfl
  · exact decodes_to_row (i := .seImm _ _) (encodeXNN_of_covers_F000 h rfl) rfl
  · exact decodes_to_row (i := .sneImm _ _) (encodeXNN_of_covers_F000 h rfl) rfl
  · exact decodes_to_row (i := .seReg _ _) (encodeXYN_of_covers h rfl (by decide)) rfl
  · exact decodes_to_row (i := .ldImm _ _) (encodeXNN_of_covers_F000 h rfl) rfl
  · exact decodes_to_row (i := .addImm _ _) (encodeXNN_of_covers_F000 h rfl) rfl
  · exact decodes_to_row (i := .ldReg _ _) (encodeXYN_of_covers h rfl (by decide)) rfl
  · exact decodes_to_row (i := .orReg _ _) (encodeXYN_of_covers h rfl (by decide)) rfl
  · exact decodes_to_row (i := .andReg _ _) (encodeXYN_of_covers h rfl (by decide)) rfl
  · exact decodes_to_row (i := .xorReg _ _) (encodeXYN_of_covers h rfl (by decide)) rfl
  · exact decodes_to_row (i := .addReg _ _) (encodeXYN_of_covers h rfl (by decide)) rfl
  · exact decodes_to_row (i := .subReg _ _) (encodeXYN_of_covers h rfl (by decide)) rfl
  · exact decodes_to_row (i := .shr _ _) (encodeXYN_of_covers h rfl (by decide)) rfl
  · exact decodes_to_row (i := .subn _ _) (encodeXYN_of_covers h rfl (by decide)) rfl
  · exact decodes_to_row (i := .shl _ _) (encodeXYN_of_covers h rfl (by decide)) rfl
  · exact decodes_to_row (i := .sneReg _ _) (encodeXYN_of_covers h rfl (by decide)) rfl
  · exact decodes_to_row (i := .ldI _) (encodeNNN_of_covers h rfl) rfl
  · exact decodes_to_row (i := .jpV0 _) (encodeNNN_of_covers h rfl) rfl
  · exact decodes_to_row (i := .rnd _ _) (encodeXNN_of_covers_F000 h rfl) rfl
  · exact decodes_to_row (i := .drw _ _ _) (encodeXYN_of_covers_F000 h rfl) rfl
  · exact decodes_to_row (i := .skp _) (encodeXNN_of_covers h rfl (by decide)) rfl
  · exact decodes_to_row (i := .sknp _) (encodeXNN_of_covers h rfl (by decide)) rfl
  · exact decodes_to_row (i := .ldVxDT _) (encodeXNN_of_covers h rfl (by decide)) rfl
  · exact decodes_to_row (i := .ldVxK _) (encodeXNN_of_covers h rfl (by decide)) rfl
  · exact decodes_to_row (i := .ldDTVx _) (encodeXNN_of_covers h rfl (by decide)) rfl
  · exact decodes_to_row (i := .ldSTVx _) (encodeXNN_of_covers h rfl (by decide)) rfl
  · exact decodes_to_row (i := .addI _) (encodeXNN_of_covers h rfl (by decide)) rfl
  · exact decodes_to_row (i := .ldF _) (encodeXNN_of_covers h rfl (by decide)) rfl
  · exact decodes_to_row (i := .ldB _) (encodeXNN_of_covers h rfl (by decide)) rfl
  · exact decodes_to_row (i := .store _) (encodeXNN_of_covers h rfl (by decide)) rfl
  · exact decodes_to_row (i := .load _) (encodeXNN_of_covers h rfl (by decide)) rfl

/-- Row `k` stands at place `k` of the table. -/
theorem getElem?_opcodeTable {r : OpcodeRow} (hr : r ∈ opcodeTable) : opcodeTable[r.number - 1]? = some r := by
  have h : ∀ r ∈ opcodeTable, opcodeTable[r.number - 1]? = some r := by decide
  exact h r hr

/-- The word of a well-formed instruction is covered by the instruction's row. -/
theorem covers_encode {r : OpcodeRow} (hr : r ∈ opcodeTable) {i : Instr} (hi : i.wellFormed = true)
    (hn : i.rowNumber = r.number) : r.covers (encode i) = true := by
  have hrow : opcodeTable[i.rowNumber - 1]? = some r := hn ▸ getElem?_opcodeTable hr
  cases i with
  | cls | ret => cases hrow; rfl
  | sys nnn =>
    cases hrow
    exact (OpcodeRow.covers_F000 rfl).mpr ⟨Word.fieldG_encodeNNN (by decide) nnn,
      by simpa [encode] using sys_wellFormed_iff.mp hi⟩
  | jp nnn | call nnn | ldI nnn | jpV0 nnn =>
    cases hrow
    exact (OpcodeRow.covers_F000 rfl).mpr ⟨Word.fieldG_encodeNNN (by decide) nnn, List.not_mem_nil⟩
  | seImm x nn | sneImm x nn | ldImm x nn | addImm x nn | rnd x nn =>
    cases hrow
    exact (OpcodeRow.covers_F000 rfl).mpr ⟨Word.fieldG_encodeXNN (by decide) nn.isLt x, List.not_mem_nil⟩
  | drw x y n =>
    cases hrow
    exact (OpcodeRow.covers_F000 rfl).mpr ⟨Word.fieldG_encodeXYN (by decide) n.isLt x y, List.not_mem_nil⟩
  | seReg x y | sneReg x y | ldReg x y | orReg x y | andReg x y | xorReg x y | addReg x y | subReg x y | shr x y
  | subn x y | shl x y =>
    cases hrow
    exact (OpcodeRow.covers_F00F rfl (by decide)).mpr
      ⟨Word.fieldG_encodeXYN (by decide) (by decide) x y, Word.val_fieldN_encodeXYN (by decide) (by decide) x y⟩
  | skp x | sknp x | ldVxDT x | ldVxK x | ldDTVx x | ldSTVx x | addI x | ldF x | ldB x | store x | load x =>
    cases hrow
    exact (OpcodeRow.covers_F0FF rfl (by decide)).mpr
      ⟨Word.fieldG_encodeXNN (by decide) (by decide) x, Word.toNat_fieldNN_encodeXNN (by decide) (by decide) x⟩

/-- Settles O4: a covered word decodes to the row, and the word of a decoded instruction is covered by its row. -/
theorem decoderIsTheOpcodeMap : Obligations.DecoderIsTheOpcodeMap := by
  refine fun w r hr => ⟨exists_decode_of_covers hr, ?_⟩
  rintro ⟨i, hd, hn⟩
  obtain ⟨hi, rfl⟩ := isWord_of_decode hd
  exact covers_encode hr hi hn

/-! ## The invalid words -/

/-- The values of `n` that group 8 gives no meaning. -/
theorem decodeGroup8_invalid {w : Word} :
    (∀ i, decodeGroup8 w ≠ .ok i) ↔ (Word.fieldN w).val ∈ [0x8, 0x9, 0xA, 0xB, 0xC, 0xD, 0xF] := by
  unfold decodeGroup8
  split
  case h_10 =>
    have := (Word.fieldN w).isLt
    exact ⟨fun _ => by simp only [List.mem_cons, List.not_mem_nil, or_false]; grind, nofun⟩
  all_goals simp [*]

/-- The values of `nn` that group E gives no meaning. -/
theorem decodeGroupE_invalid {w : Word} :
    (∀ i, decodeGroupE w ≠ .ok i) ↔ (Word.fieldNN w).toNat ∉ [0x9E, 0xA1] := by
  unfold decodeGroupE
  split <;> simp_all

/-- The values of `nn` that group F gives no meaning. -/
theorem decodeGroupF_invalid {w : Word} :
    (∀ i, decodeGroupF w ≠ .ok i) ↔
      (Word.fieldNN w).toNat ∉ [0x07, 0x0A, 0x15, 0x18, 0x1E, 0x29, 0x33, 0x55, 0x65] := by
  unfold decodeGroupF
  split <;> simp_all

theorem Word.fieldG_eq_div (w : Word) : Word.fieldG w = w.toNat / 0x1000 :=
  Nat.mod_eq_of_lt (Nat.div_lt_of_lt_mul w.toNat_lt)

theorem Word.val_fieldN_eq_mod (w : Word) : (Word.fieldN w).val = w.toNat % 0x10 := by
  simp [Word.fieldN, Word.bits]

theorem Word.toNat_fieldNN_eq_mod (w : Word) : (Word.fieldNN w).toNat = w.toNat % 0x100 := by
  simp [Word.fieldNN, Word.bits]

/-- Settles O5: groups 8, E and F by their secondary fields, groups 5 and 9 by `n`; every word of another group decodes. -/
theorem invalidWordsAreExactlyTheTable : Obligations.InvalidWordsAreExactlyTheTable := by
  intro w
  have hlt := Word.fieldG_lt w
  simp only [← Word.fieldG_eq_div, ← Word.val_fieldN_eq_mod, ← Word.toNat_fieldNN_eq_mod]
  unfold decode
  split
  case h_9 hg => simpa [hg] using decodeGroup8_invalid
  case h_15 hg => simpa [hg] using decodeGroupE_invalid
  case h_16 =>
    have hg : Word.fieldG w = 0xF := by grind
    simpa [hg] using decodeGroupF_invalid
  case h_6 hg | h_10 hg => split <;> simp [*]
  all_goals simp [*]

/-- Settles O1: the decoder evaluates to the stated answer on each of the words. -/
theorem specWordsDecodeAsWritten : Obligations.SpecWordsDecodeAsWritten := by
  unfold Obligations.SpecWordsDecodeAsWritten
  decide

end Sys2Proof

namespace Sys2Proof.Machine

/-- Settles O6: the two bytes at `pc` determine the fetched word, and each outcome is one of the cases of STEP. -/
theorem stepRunsTheDecodedInstruction : Obligations.StepRunsTheDecodedInstruction := by
  intro s
  refine ⟨step_of_halted, step_of_pc_out_of_range, fun hrun hpc w hw => ?_⟩
  obtain rfl : s.fetch = w := BitVec.eq_of_toNat_eq (s.toNat_fetch.trans hw.symm)
  refine ⟨fun hinv => ?_, fun i t hd ht hh => ?_, fun i t hd ht hh => ?_⟩
  · cases hd : decode s.fetch with
    | error e => exact step_of_invalid hrun hpc hd
    | ok i => exact absurd hd (hinv i)
  · rw [step_of_decoded hrun hpc hd, ht, closeStep_next, if_neg (by simp [hh])]
    rfl
  · rw [step_of_decoded hrun hpc hd, ht, closeStep_next, if_pos hh]

end Sys2Proof.Machine
end

section
/-! PROOFS of the family 41_control: call and return (O24, O25, O26), the no-op and the jumps (O22, O23), and the register
skips (O27, O28). The decodings are `decode_encode`, since each stated word is the instruction's own encoding; the frames are
the frame rules of the operations the handlers are written with. -/

namespace Sys2Proof.Machine

/-! ## Call and return -/

/-- Settles O24: the two cases of `2NNN`, by the number of entries on the stack. -/
theorem callPushesOrOverflows : Obligations.CallPushesOrOverflows := by
  refine fun nnn => ⟨decode_encode (i := .call nnn) rfl, fun s => ⟨fun h => ?_, fun h => ?_⟩⟩
  · refine ⟨_, execCall_of_lt nnn h, fun k hk => ?_, rfl, toNat_addrOperand nnn, ?_⟩
    · simp [hk, BitVec.toNat_add]
    · exact (unchanged_push h rfl fun k hk => beq_iff_eq.mpr hk).setPc _
  · exact ⟨_, rfl, rfl, execCall_of_full nnn h⟩

/-- Settles O25: the two cases of `00EE`. -/
theorem returnPopsOrUnderflows : Obligations.ReturnPopsOrUnderflows := by
  refine ⟨decode_encode (i := .ret) rfl, fun s => ⟨fun h => ?_, fun h => ?_⟩⟩
  · refine ⟨_, execRet_of_pos h.ne', Nat.sub_add_cancel h, fun k hk => ?_, (unchanged_withSp s _ rfl).setPc _⟩
    simp [← hk]
  · exact ⟨_, rfl, rfl, execRet_of_empty h⟩

/-- Settles O26: the entry that `00EE` pops is the one `2NNN` pushed. -/
theorem returnComesBackAfterCall : Obligations.ReturnComesBackAfterCall := by
  intro nnn s t u h ht hstack hsp
  obtain rfl := Host.Outcome.next.inj ((execCall_of_lt nnn h).symm.trans ht)
  have hpos : u.sp.val ≠ 0 := by simp [hsp]
  exact ⟨_, execRet_of_pos hpos, by simp [hstack, hsp], by simp [hsp]⟩

/-! ## The no-op and the jumps -/

theorem advanced_advance (s : State) : Advanced s s.advance := BitVec.toNat_add s.pc 2

/-- Settles O22: group 0 falls to `0NNN` outside the two excluded words, and `0NNN` only advances. -/
theorem sysIsANoOp : Obligations.SysIsANoOp := by
  refine fun nnn => ⟨fun hcls hret => ?_, fun s => ⟨_, rfl, advanced_advance s, (Unchanged.refl _ s).advance⟩⟩
  have hwf : (Instr.sys nnn).wellFormed = true := by simpa [Instr.wellFormed] using ⟨hcls, hret⟩
  simpa [encode, encodeNNN] using decode_encode hwf

/-- The sum of `BNNN` is exact: it needs 13 bits at most (R138). -/
theorem toNat_addrOperand_add_regWord (nnn : Addr) (s : State) (x : RegIdx) :
    (addrOperand nnn + s.regWord x).toNat = nnn.toNat + (s.reg x).toNat := by
  have := nnn.isLt
  have := (s.reg x).isLt
  simp only [State.regWord, BitVec.toNat_add, toNat_addrOperand, BitVec.toNat_setWidth]
  omega

/-- Settles O23: each jump is one write of `pc`, which is in every footprint. -/
theorem jumpsSetPc : Obligations.JumpsSetPc := by
  refine fun nnn => ⟨decode_encode (i := .jp nnn) rfl, decode_encode (i := .jpV0 nnn) rfl, fun s => ⟨?_, ?_⟩⟩
  · exact ⟨_, rfl, toNat_addrOperand nnn, (Unchanged.refl _ s).setPc _⟩
  · exact ⟨_, rfl, toNat_addrOperand_add_regWord nnn s regV0, (Unchanged.refl _ s).setPc _⟩

/-! ## The register skips -/

theorem skipped_skipIf (s : State) {b : Bool} {c : Prop} [Decidable c] (h : b = true ↔ c) :
    Skipped c s (s.skipIf b) := by
  by_cases hc : c
  · simp [Skipped, h.mpr hc, hc, BitVec.toNat_add]
  · simp [Skipped, mt h.mp hc, hc, BitVec.toNat_add]

/-- What a skip on the Boolean `b` leaves, when `b` says `c`: `pc` moved by 4 or 2, and nothing else. -/
theorem skipIf_spec (s : State) {b : Bool} {c : Prop} [Decidable c] (h : b = true ↔ c) :
    Skipped c s (s.skipIf b) ∧ Unchanged { } s (s.skipIf b) :=
  ⟨skipped_skipIf s h, unchanged_skipIf ..⟩

theorem beq_iff_toNat_eq (a b : Byte) : (a == b) = true ↔ a.toNat = b.toNat :=
  beq_iff_eq.trans BitVec.toNat_inj.symm

theorem bne_iff_toNat_ne (a b : Byte) : (a != b) = true ↔ a.toNat ≠ b.toNat :=
  bne_iff_ne.trans BitVec.toNat_ne_iff_ne.symm

/-- Settles O27: both are a skip on the comparison of `Vx` with `nn`. -/
theorem immediateSkips : Obligations.ImmediateSkips := by
  refine fun x nn => ⟨decode_encode (i := .seImm x nn) rfl, decode_encode (i := .sneImm x nn) rfl, fun s => ⟨?_, ?_⟩⟩
  · exact ⟨_, rfl, skipIf_spec s (beq_iff_toNat_eq ..)⟩
  · exact ⟨_, rfl, skipIf_spec s (bne_iff_toNat_ne ..)⟩

/-- Groups 5 and 9 have no instruction with a low nibble other than 0 (R96). -/
theorem decode_encodeXYN_of_ne_zero (x y : RegIdx) {n : Fin 16} (hn : n.val ≠ 0) :
    decode (encodeXYN 0x5 x y n.val) = .error .invalidGroup5 ∧
      decode (encodeXYN 0x9 x y n.val) = .error .invalidGroup9 := by
  constructor <;> simp [decode, Word.fieldG_encodeXYN, hn]

/-- Settles O28: both are a skip on the comparison of `Vx` with `Vy`. -/
theorem registerSkips : Obligations.RegisterSkips := by
  refine fun x y => ⟨decode_encode (i := .seReg x y) rfl, decode_encode (i := .sneReg x y) rfl,
    fun _ hn => decode_encodeXYN_of_ne_zero x y hn, fun s => ⟨?_, ?_⟩⟩
  · exact ⟨_, rfl, skipIf_spec s (beq_iff_toNat_eq ..)⟩
  · exact ⟨_, rfl, skipIf_spec s (bne_iff_toNat_ne ..)⟩

end Sys2Proof.Machine
end

section
/-! PROOFS of the family 42_alu: the flag-producing instructions (O32, O33, O34), the register loads, sums and logic that
write no flag (O29, O30, O31), and the random byte (O35). A handler is one register write, or one flagged write, and the
advance; each instruction's proof adds what its own value (and flag) is. -/

namespace Sys2Proof.Machine

/-! ## Decoding -/

/-- The stated words of group 8 fold the low nibble into the constant. -/
theorem decode_ofNat_group8 (n : Nat) {i : Instr} {x y : RegIdx} (hwf : i.wellFormed = true)
    (hi : encode i = encodeXYN 0x8 x y n) :
    decode (BitVec.ofNat 16 (0x8000 + n + x.val * 0x100 + y.val * 0x10)) = .ok i := by
  have hword : 0x8000 + n + x.val * 0x100 + y.val * 0x10 = 0x8 * 0x1000 + x.val * 0x100 + y.val * 0x10 + n := by omega
  rw [hword]
  exact (congrArg decode hi).symm.trans (decode_encode hwf)

/-! ## A register write and the advance -/

theorem advanced_advance_of_pc_eq {s t : State} (h : t.pc = s.pc) : Advanced s t.advance := by
  rw [Advanced, ← h]
  exact advanced_advance t

theorem reg_setReg_advance (s : State) (x : RegIdx) (b : Byte) : (s.setReg x b).advance.reg x = b :=
  s.reg_setReg_self x b

/-- What the flagless instructions leave unchanged: all but `Vx`, `VF` included unless it is `Vx`. -/
theorem setReg_advance_frame (s : State) (x : RegIdx) (b : Byte) :
    Advanced s (s.setReg x b).advance ∧ Unchanged { regs := onlyReg x } s (s.setReg x b).advance :=
  ⟨advanced_advance_of_pc_eq rfl, (unchanged_setReg s b (onlyReg_self x)).advance⟩

/-! ## A flag-producing write and the advance (R103) -/

theorem State.writeFlagged_pc (s : State) (x : RegIdx) (r : AluResult) : (s.writeFlagged x r).pc = s.pc := by
  obtain ⟨v, hv⟩ := s.writeFlagged_eq x r
  rw [hv]

/-- `State.writeFlagged` is the write the statements speak of, under both orders. -/
theorem wroteFlagged_writeFlagged (s : State) (x : RegIdx) (r : AluResult) :
    WroteFlagged x r.value.toNat (flagByte r.flag).toNat s (s.writeFlagged x r) := by
  refine ⟨fun hx => ⟨?_, ?_⟩, ?_, ?_⟩
  · rw [State.reg_writeFlagged_dest, if_neg fun h => hx h.1]
  · exact congrArg BitVec.toNat (s.reg_writeFlagged_flag x r hx)
  · rintro rfl horder
    rw [State.reg_writeFlagged_dest, if_neg (by simp [horder])]
  · rintro rfl horder
    rw [State.reg_writeFlagged_dest, if_pos ⟨rfl, horder⟩]

/-- What a flag-producing instruction does, given the value and the flag of its computation. -/
theorem writeFlagged_advance_spec (s : State) (x : RegIdx) {r : AluResult} {value flag : Nat}
    (hvalue : r.value.toNat = value) (hflag : (flagByte r.flag).toNat = flag) :
    WroteFlagged x value flag s (s.writeFlagged x r).advance ∧ Advanced s (s.writeFlagged x r).advance ∧
      Unchanged { regs := regAndVF x } s (s.writeFlagged x r).advance := by
  subst hvalue hflag
  exact ⟨wroteFlagged_writeFlagged s x r, advanced_advance_of_pc_eq (s.writeFlagged_pc x r),
    (unchanged_writeFlagged s r (regAndVF_self x) (regAndVF_regVF x)).advance⟩

/-! ## The computations (R176 to R180) -/

theorem toNat_flagByte_decide (c : Prop) [Decidable c] : (flagByte (decide c)).toNat = if c then 1 else 0 := by
  by_cases h : c <;> simp [flagByte, h]

theorem toNat_value_addCarry (a b : Byte) : (addCarry a b).value.toNat = (a.toNat + b.toNat) % 256 :=
  BitVec.toNat_ofNat ..

theorem toNat_flag_addCarry (a b : Byte) :
    (flagByte (addCarry a b).flag).toNat = if a.toNat + b.toNat > 255 then 1 else 0 :=
  toNat_flagByte_decide _

theorem toNat_value_subNoBorrow (a b : Byte) :
    (subNoBorrow a b).value.toNat = if a.toNat < b.toNat then a.toNat + 256 - b.toNat else a.toNat - b.toNat := by
  have ha := a.isLt
  have hb := b.isLt
  rw [subNoBorrow, BitVec.toNat_ofNat]
  split <;> omega

theorem toNat_flag_subNoBorrow (a b : Byte) :
    (flagByte (subNoBorrow a b).flag).toNat = if a.toNat ≥ b.toNat then 1 else 0 :=
  toNat_flagByte_decide _

theorem toNat_value_shiftRight (a : Byte) : (shiftRight a).value.toNat = a.toNat / 2 := by
  have ha := a.isLt
  rw [shiftRight, BitVec.toNat_ofNat]
  omega

theorem toNat_flag_shiftRight (a : Byte) : (flagByte (shiftRight a).flag).toNat = a.toNat % 2 := by
  rw [shiftRight, toNat_flagByte_decide]
  split <;> omega

theorem toNat_value_shiftLeft (a : Byte) : (shiftLeft a).value.toNat = a.toNat * 2 % 256 :=
  BitVec.toNat_ofNat ..

theorem toNat_flag_shiftLeft (a : Byte) : (flagByte (shiftLeft a).flag).toNat = a.toNat / 128 := by
  have ha := a.isLt
  rw [shiftLeft, toNat_flagByte_decide]
  split <;> omega

/-! ## The flag-producing instructions -/

/-- Settles O32: one flagged write of the sum and its carry. -/
theorem addWithCarryOut : Obligations.AddWithCarryOut := by
  refine fun x y => ⟨decode_ofNat_group8 4 (i := .addReg x y) rfl rfl, fun s => ⟨_, rfl, ?_⟩⟩
  exact writeFlagged_advance_spec s x (toNat_value_addCarry ..) (toNat_flag_addCarry ..)

/-- Settles O33: both are `subNoBorrow`, with the operands in either order. -/
theorem subtractWithoutBorrowFlag : Obligations.SubtractWithoutBorrowFlag := by
  refine fun x y => ⟨decode_ofNat_group8 5 (i := .subReg x y) rfl rfl,
    decode_ofNat_group8 7 (i := .subn x y) rfl rfl, ?_⟩
  rintro s _ _ rfl rfl
  constructor
  · exact ⟨_, rfl, writeFlagged_advance_spec s x (toNat_value_subNoBorrow ..) (toNat_flag_subNoBorrow ..)⟩
  · exact ⟨_, rfl, writeFlagged_advance_spec s x (toNat_value_subNoBorrow ..) (toNat_flag_subNoBorrow ..)⟩

/-- Settles O34: one flagged write of the shifted `Vx` and the bit shifted out. -/
theorem shiftsByOne : Obligations.ShiftsByOne := by
  refine fun x y => ⟨decode_ofNat_group8 6 (i := .shr x y) rfl rfl,
    decode_ofNat_group8 0xE (i := .shl x y) rfl rfl, ?_⟩
  rintro s _ rfl
  constructor
  · exact ⟨_, rfl, writeFlagged_advance_spec s x (toNat_value_shiftRight _) (toNat_flag_shiftRight _)⟩
  · exact ⟨_, rfl, writeFlagged_advance_spec s x (toNat_value_shiftLeft _) (toNat_flag_shiftLeft _)⟩

/-! ## The instructions that write no flag -/

/-- Settles O29: both are one register write. -/
theorem registerLoads : Obligations.RegisterLoads := by
  refine fun x y nn => ⟨decode_encode (i := .ldImm x nn) rfl, decode_encode (i := .ldReg x y) rfl, fun s => ⟨?_, ?_⟩⟩
  · exact ⟨_, rfl, reg_setReg_advance .., setReg_advance_frame ..⟩
  · exact ⟨_, rfl, reg_setReg_advance .., setReg_advance_frame ..⟩

/-- Settles O30: the value of `addCarry` is written, its flag is not. -/
theorem addImmediateWrapsWithoutFlag : Obligations.AddImmediateWrapsWithoutFlag := by
  refine fun x nn => ⟨decode_encode (i := .addImm x nn) rfl, fun s => ⟨_, rfl, ?_, setReg_advance_frame ..⟩⟩
  rw [reg_setReg_advance, toNat_value_addCarry]

/-- Settles O31: each is one register write of a word operation that acts bit by bit. -/
theorem logicBitByBit : Obligations.LogicBitByBit := by
  refine fun x y => ⟨decode_ofNat_group8 1 (i := .orReg x y) rfl rfl, decode_ofNat_group8 2 (i := .andReg x y) rfl rfl,
    decode_ofNat_group8 3 (i := .xorReg x y) rfl rfl, fun s => ⟨?_, ?_, ?_⟩⟩
  · refine ⟨_, rfl, fun k _ => ?_, setReg_advance_frame ..⟩
    rw [reg_setReg_advance, BitVec.getLsbD_or]
  · refine ⟨_, rfl, fun k _ => ?_, setReg_advance_frame ..⟩
    rw [reg_setReg_advance, BitVec.getLsbD_and]
  · refine ⟨_, rfl, fun k _ => ?_, setReg_advance_frame ..⟩
    rw [reg_setReg_advance, BitVec.getLsbD_xor]

/-- Settles O35: the register write follows the draw, which changes nothing but the random source. -/
theorem randomByteIsMasked : Obligations.RandomByteIsMasked := by
  refine fun x nn => ⟨decode_encode (i := .rnd x nn) rfl, fun s => ⟨_, rfl, fun k _ => ?_, rfl,
    advanced_advance_of_pc_eq rfl, ((unchanged_draw s rfl).trans (unchanged_setReg _ _ (onlyReg_self x))).advance⟩⟩
  rw [reg_setReg_advance, BitVec.getLsbD_and]
  rfl

end Sys2Proof.Machine
end

section
/-! PROOFS of the family 43_index_memory: the digits and the registers stored from `I` on and loaded back (O38, O39, O40,
O41), and the writes of `I` (O36, O37). Every access is at `State.ea`, so each proof reads a byte at `(I + j) mod 4096`. -/

namespace Sys2Proof.Machine

/-! ## Decoding and addresses -/

/-- The stated words of group F fold the low byte into the constant. -/
theorem decode_ofNat_groupF (n : Nat) {i : Instr} {x : RegIdx} (hwf : i.wellFormed = true)
    (hi : encode i = encodeXNN 0xF x n) : decode (BitVec.ofNat 16 (0xF000 + n + x.val * 0x100)) = .ok i := by
  have hword : 0xF000 + n + x.val * 0x100 = 0xF * 0x1000 + x.val * 0x100 + n := by omega
  rw [hword]
  exact (congrArg decode hi).symm.trans (decode_encode hwf)

theorem State.ea_eq_mod (s : State) (j : Nat) : s.ea j = (s.index.toNat + j) % 4096 := rfl

/-- Addresses are reduced modulo 4096 by every access, so reducing one beforehand changes nothing (R61). -/
theorem State.byteAt_ea (s t : State) (j : Nat) : t.byteAt (s.ea j) = t.byteAt (s.index.toNat + j) :=
  Memory.read_wrap t.mem _

/-! ## Bytes stored from `I` on (R213, R214) -/

theorem State.byteAt_ea_storeAtIndex {s : State} (hm : Memory.wf s.mem) {vs : List Byte}
    (hlen : vs.length ≤ Config.memSize) {j : Nat} (hj : j < vs.length) :
    (s.storeAtIndex vs).byteAt (s.ea j) = vs[j] :=
  (State.byteAt_ea ..).trans (Memory.read_writeFrom hm s.index.toNat 0 vs hlen j hj)

/-- A number that fits its width is not reduced: the digits in a byte, the glyph's address in a word. -/
theorem toNat_ofNat_of_lt {width n : Nat} (h : n < 2 ^ width) : (BitVec.ofNat width n).toNat = n :=
  (BitVec.toNat_ofNat n width).trans (Nat.mod_eq_of_lt h)

/-- Settles O38: three bytes are stored, and each digit fits its byte. -/
theorem decimalDigitsAreStored : Obligations.DecimalDigitsAreStored := by
  refine fun x => ⟨decode_ofNat_groupF 0x33 (i := .ldB x) rfl rfl, fun s hm => ?_⟩
  have hbyte (j : Nat) (hj : j < 3) : (s.storeAtIndex (digits (s.reg x))).byteAt (s.ea j) = (digits (s.reg x))[j] :=
    State.byteAt_ea_storeAtIndex hm (by simp [digits, Config.memSize]) hj
  have hx := (s.reg x).isLt
  refine ⟨_, rfl, ?hundreds, ?tens, ?units, s.ea_eq_mod, advanced_advance_of_pc_eq rfl,
    instructionsWriteOnlyTheirFootprint (.ldB x) s _ hm rfl⟩
  case hundreds =>
    rw [State.byteAt_advance, hbyte 0 (by decide)]
    exact toNat_ofNat_of_lt (by omega)
  case tens =>
    rw [State.byteAt_advance, hbyte 1 (by decide)]
    exact toNat_ofNat_of_lt (by omega)
  case units =>
    rw [State.byteAt_advance, hbyte 2 (by decide)]
    exact toNat_ofNat_of_lt (by omega)

/-- Settles O39: `V[j]` is the byte stored at `I + j`. -/
theorem registersAreStored : Obligations.RegistersAreStored := by
  refine fun x => ⟨decode_ofNat_groupF 0x55 (i := .store x) rfl rfl, fun s hm => ⟨_, rfl, fun j hj => ?_, s.ea_eq_mod,
    advanced_advance_of_pc_eq rfl, instructionsWriteOnlyTheirFootprint (.store x) s _ hm rfl⟩⟩
  rw [State.byteAt_advance, State.byteAt_ea]
  exact State.byteAt_storeAtIndex_firstRegs hm x j hj

/-! ## Registers loaded from `I` on (R215) -/

theorem State.reg_setFirstRegs_loadAtIndex (s : State) (x j : RegIdx) :
    (s.setFirstRegs (s.loadAtIndex (x.val + 1))).reg j =
      if j.val ≤ x.val then s.byteAt (s.index.toNat + j.val) else s.reg j := by
  rw [State.reg_setFirstRegs, State.loadAtIndex, Memory.getD_readFrom]
  simp only [Nat.lt_succ_iff, State.byteAt]

/-- Settles O40: `V[0]` to `V[x]` are the bytes at `State.ea`, and the list loaded has no entry for a later register. -/
theorem registersAreLoaded : Obligations.RegistersAreLoaded := by
  refine fun x => ⟨decode_ofNat_groupF 0x65 (i := .load x) rfl rfl, fun s => ⟨_, rfl, fun j hj => ?_,
    advanced_advance_of_pc_eq rfl, (unchanged_setFirstRegs s fun y hy => decide_eq_true ?_).advance⟩⟩
  · rw [State.reg_advance, State.reg_setFirstRegs_loadAtIndex, if_pos hj, ← s.ea_eq_mod, State.byteAt_ea]
  · exact Nat.lt_succ_iff.mp (hy.trans_eq (Memory.length_readFrom ..))

/-- Settles O41: the load reads the bytes that the store put at the same addresses. -/
theorem storedRegistersComeBack : Obligations.StoredRegistersComeBack := by
  intro x s t u hm ht humem huindex
  obtain rfl : (s.storeAtIndex (s.firstRegs x)).advance = t := Host.Outcome.next.inj ht
  refine ⟨_, rfl, humem, fun j => ?_⟩
  rw [State.reg_advance, State.reg_setFirstRegs_loadAtIndex, huindex, State.byteAt_congr humem, State.byteAt_advance]
  split
  case isTrue hj => exact State.byteAt_storeAtIndex_firstRegs hm x j hj
  case isFalse => rfl

/-! ## Writes of the index register -/

/-- What the writers of `I` leave unchanged: all but `I`, `VF` included. -/
theorem setIndex_advance_frame (s : State) (w : Word) :
    Advanced s (s.setIndex w).advance ∧ Unchanged { index := true } s (s.setIndex w).advance :=
  ⟨advanced_advance_of_pc_eq rfl, (unchanged_setIndex s w rfl).advance⟩

/-- The sum of `FX1E` wraps at 16 bits (R211). -/
theorem toNat_add_regWord (w : Word) (s : State) (x : RegIdx) :
    (w + s.regWord x).toNat = (w.toNat + (s.reg x).toNat) % 65536 := by
  rw [BitVec.toNat_add, State.regWord, BitVec.toNat_setWidth_of_le (by decide)]

/-- The product of `FX29` is exact: it needs 11 bits at most (R212). -/
theorem toNat_glyphAddress (a : Byte) : (glyphAddress a).toNat = a.toNat * 5 := by
  have ha := a.isLt
  exact toNat_ofNat_of_lt (by omega)

/-- Settles O36. -/
theorem setIndex : Obligations.SetIndex :=
  fun nnn => ⟨decode_encode (i := .ldI nnn) rfl, fun s =>
    ⟨_, rfl, toNat_addrOperand nnn, setIndex_advance_frame s (addrOperand nnn)⟩⟩

/-- Settles O37: both are one write of `I`, by the sum or by the glyph's address. -/
theorem indexArithmetic : Obligations.IndexArithmetic := by
  refine fun x => ⟨decode_ofNat_groupF 0x1E (i := .addI x) rfl rfl, decode_ofNat_groupF 0x29 (i := .ldF x) rfl rfl,
    fun s => ⟨?_, ?_⟩⟩
  · exact ⟨_, rfl, toNat_add_regWord s.index s x, setIndex_advance_frame ..⟩
  · exact ⟨_, rfl, toNat_glyphAddress (s.reg x), setIndex_advance_frame ..⟩

end Sys2Proof.Machine
end

section
/-! PROOFS of the family 44_display: the clear (O44), the draw as an XOR with the sprite (O45), and what follows from it: the
collision (O46), the clipping (O47) and the self-inverse draw (O48). The three need no more of `DXYN` than O45's statement. -/

namespace Sys2Proof.Machine

/-! ## The clear -/

/-- Settles O44: the one write is the display's. -/
theorem clearTurnsEveryPixelOff : Obligations.ClearTurnsEveryPixelOff :=
  ⟨decode_encode (i := .cls) rfl, fun s => ⟨_, rfl, fun r c _ _ => Grid.pixel_clear r c, advanced_advance_of_pc_eq rfl,
    (unchanged_display s fun _ _ (h : true = false) => nomatch h).advance⟩⟩

/-! ## The draw -/

/-- Every pixel the sprite covers is inverted, no other (R241, R242). -/
theorem pixel_spriteCanvas (s : State) (x y : RegIdx) (n : Fin 16) (r c : Nat) :
    Grid.pixel (spriteCanvas x y n s).grid r c = (Grid.pixel s.display r c ^^ spriteCovers s x y n.val r c) := by
  rw [← rowsCover_loadAtIndex]
  exact (Canvas.drawRows_spec ..).1 r c

/-- The loop collides exactly when a covered pixel was on (R244). -/
theorem collided_spriteCanvas (s : State) (x y : RegIdx) (n : Fin 16) :
    (spriteCanvas x y n s).collided = true ↔
      ∃ r c, Grid.pixel s.display r c = true ∧ spriteCovers s x y n.val r c = true := by
  simp only [← rowsCover_loadAtIndex]
  exact (Canvas.drawRows_spec ..).2.trans (or_iff_right Bool.false_ne_true)

/-- A flag byte is 1 or 0 by the condition its Boolean decides. -/
theorem eq_flagByte_cases {v : Byte} {b : Bool} {c : Prop} (hv : v = flagByte b) (h : b = true ↔ c) :
    v = 1 ∧ c ∨ v = 0 ∧ ¬c := by
  cases b with
  | true => exact .inl ⟨hv, h.mp rfl⟩
  | false => exact .inr ⟨hv, mt h.mpr Bool.false_ne_true⟩

/-- Settles O45: the loop's pixels and collision are those of the sprite, and `VF` is written after it. -/
theorem drawIsXorWithTheSprite : Obligations.DrawIsXorWithTheSprite := by
  refine fun x y n => ⟨decode_encode (i := .drw x y n) rfl, fun s => ⟨_, rfl, pixel_spriteCanvas s x y n, ?flag,
    advanced_advance_of_pc_eq rfl, ?frame⟩⟩
  case flag => exact eq_flagByte_cases (reg_setReg_advance _ regVF _) (collided_spriteCanvas s x y n)
  case frame =>
    refine ((unchanged_display s fun r c h => ?_).trans (unchanged_setReg _ _ (onlyReg_self regVF))).advance
    exact pixel_spriteCanvas_of_not_spriteBox s x y n h

/-! ## Collision and clipping -/

/-- A pixel on before the draw is off after it exactly where the sprite covers it. -/
theorem turnedOff_iff_covered {before after covered : Bool} (h : after = (before ^^ covered)) :
    before = true ∧ after = false ↔ before = true ∧ covered = true := by
  cases before <;> simp [h]

/-- Settles O46: the pixels turned off are the covered ones that were on. -/
theorem collisionIsAPixelTurnedOff : Obligations.CollisionIsAPixelTurnedOff := by
  intro x y n s
  obtain ⟨t, ht, hpixel, hflag, -⟩ := (drawIsXorWithTheSprite x y n).2 s
  refine ⟨t, ht, ?_⟩
  simpa only [turnedOff_iff_covered (hpixel _ _)] using hflag

/-- A covered pixel is on the grid and in the sprite's box, neither coordinate reduced (R243). -/
theorem bounds_of_spriteCovers {s : State} {x y : RegIdx} {n r c : Nat} (h : spriteCovers s x y n r c = true) :
    (r < 32 ∧ c < 64) ∧ (s.reg y).toNat ≤ r ∧ r < (s.reg y).toNat + n ∧ (s.reg x).toNat ≤ c ∧ c < (s.reg x).toNat + 8 := by
  simp only [spriteCovers, spriteBox, Bool.and_eq_true, decide_eq_true_eq] at h
  exact h.1

/-- Settles O47: only covered pixels change, and a sprite that starts off the grid covers none. -/
theorem spritesAreClippedNotWrapped : Obligations.SpritesAreClippedNotWrapped := by
  intro x y n s
  obtain ⟨t, ht, hpixel, hflag, -⟩ := (drawIsXorWithTheSprite x y n).2 s
  refine ⟨t, ht, fun r c hchanged => ?box, fun hoff => ?off⟩
  case box =>
    have hcovered : spriteCovers s x y n.val r c = true := by
      by_contra huncovered
      exact hchanged (by simp [hpixel, huncovered])
    obtain ⟨⟨hr, hc⟩, hrow, hrow', hcol, hcol'⟩ := bounds_of_spriteCovers hcovered
    exact ⟨hr, hc, ⟨r - (s.reg y).toNat, by omega⟩, c - (s.reg x).toNat, by omega⟩
  case off =>
    have huncovered (r c : Nat) : spriteCovers s x y n.val r c = false := by
      refine Bool.eq_false_iff.mpr fun h => ?_
      have := bounds_of_spriteCovers h
      omega
    simp only [huncovered, Bool.xor_false] at hpixel
    exact ⟨Grid.ext_pixel fun r c _ _ => hpixel r c, by simpa [huncovered] using hflag⟩

/-! ## Drawing twice -/

/-- A draw moves neither the sprite nor the bytes it is read from, unless `VF` gives its position. -/
theorem spriteCovers_of_unchanged {s t : State} {x y : RegIdx} {pixels : Nat → Nat → Bool} (hx : x ≠ 15) (hy : y ≠ 15)
    (h : Unchanged { regs := onlyReg 15, pixels } s t) (n r c : Nat) :
    spriteCovers t x y n r c = spriteCovers s x y n r c := by
  have hregx : t.reg x = s.reg x := h.regs x (beq_false_of_ne hx)
  have hregy : t.reg y = s.reg y := h.regs y (beq_false_of_ne hy)
  rw [spriteCovers, spriteBox, hregx, hregy, h.index rfl, h.bytes _ rfl]
  rfl

/-- A covered pixel is on after the draw exactly when it was off before it. -/
theorem on_and_covered_iff {before after covered : Bool} (h : after = (before ^^ covered)) :
    after = true ∧ covered = true ↔ before = false ∧ covered = true := by
  cases covered <;> simp [h]

/-- Settles O48: both draws invert the same pixels, and a covered pixel is on between them exactly when it was off before. -/
theorem drawingTwiceRestoresTheDisplay : Obligations.DrawingTwiceRestoresTheDisplay := by
  intro x y n s hx hy
  obtain ⟨t, ht, hpixel, -, -, hframe⟩ := (drawIsXorWithTheSprite x y n).2 s
  obtain ⟨u, hu, hpixel', hflag, -⟩ := (drawIsXorWithTheSprite x y n).2 t
  simp only [spriteCovers_of_unchanged hx hy hframe] at hpixel' hflag
  refine ⟨t, u, ht, hu, Grid.ext_pixel fun r c _ _ => ?display, ?flag⟩
  case display => rw [hpixel', hpixel, Bool.xor_assoc, Bool.xor_self, Bool.xor_false]
  case flag =>
    simp only [on_and_covered_iff (hpixel _ _)] at hflag
    obtain ⟨hVF, hhit⟩ | ⟨hVF, hmiss⟩ := hflag
    · exact iff_of_true hVF hhit
    · exact iff_of_false (by simp [hVF]) hmiss

end Sys2Proof.Machine
end

section
/-! PROOFS of the family 45_keypad_timer: the key skips (O49), the wait for a key (O50) and the timer transfers (O51). Each
handler is one skip, register write or timer write; what the keypad adds is which key `Vx` names and which is the lowest. -/

namespace Sys2Proof.Machine

/-! ## The key skips (R260, R261) -/

/-- The stated words of group E fold the low byte into the constant. -/
theorem decode_ofNat_groupE (n : Nat) {i : Instr} {x : RegIdx} (hwf : i.wellFormed = true)
    (hi : encode i = encodeXNN 0xE x n) : decode (BitVec.ofNat 16 (0xE000 + n + x.val * 0x100)) = .ok i := by
  rw [Nat.add_right_comm]
  exact (congrArg decode hi).symm.trans (decode_encode hwf)

theorem State.keyOperand_of_toNat_eq {s : State} {x : RegIdx} {k : Fin 16} (h : (s.reg x).toNat = k.val) :
    s.keyOperand x = s.key[k] := by
  rw [s.keyOperand_of_lt x (h.trans_lt k.isLt)]
  simp [h]

/-- Settles O49: both are a skip on the key operand, which is the key `Vx` names, or false where it names none. -/
theorem keySkips : Obligations.KeySkips := by
  refine fun x => ⟨decode_ofNat_groupE 0x9E (i := .skp x) rfl rfl, decode_ofNat_groupE 0xA1 (i := .sknp x) rfl rfl,
    fun s => ⟨_, _, rfl, rfl, fun k hk => ?key, fun hx => ?noKey, unchanged_skipIf .., unchanged_skipIf ..⟩⟩
  case key =>
    have hop : s.keyOperand x = s.key[k] := State.keyOperand_of_toNat_eq hk
    exact ⟨skipped_skipIf s (by rw [hop]), skipped_skipIf s (by rw [hop, Bool.not_eq_true'])⟩
  case noKey =>
    have hop : s.keyOperand x = false := s.keyOperand_of_ge x hx
    exact ⟨skipped_skipIf s (by simp [hop]), skipped_skipIf s (by simp [hop])⟩

/-! ## The wait for a key (R262) -/

/-- Settles O50: the key searched for is the least one pressed, and its index fits a byte. -/
theorem waitTakesTheLowestPressedKey : Obligations.WaitTakesTheLowestPressedKey := by
  refine fun x => ⟨decode_ofNat_groupF 0x0A (i := .ldVxK x) rfl rfl,
    fun s => ⟨fun k hk hlow => ?pressed, fun hnone => ?none⟩⟩
  case pressed =>
    have hkey : s.lowestKey = some k := (s.lowestKey_eq_some k).mpr ⟨hk, hlow⟩
    refine ⟨_, execLdVxK_of_some x hkey, ?_, setReg_advance_frame ..⟩
    rw [reg_setReg_advance]
    exact toNat_ofNat_of_lt (by omega)
  case none => exact execLdVxK_of_none x (s.lowestKey_eq_none.mpr hnone)

/-! ## The timer transfers (R263 to R265) -/

/-- Settles O51: one write each, of `Vx`, of `DT` and of `ST`. -/
theorem timerTransfers : Obligations.TimerTransfers := by
  refine fun x => ⟨decode_ofNat_groupF 0x07 (i := .ldVxDT x) rfl rfl, decode_ofNat_groupF 0x15 (i := .ldDTVx x) rfl rfl,
    decode_ofNat_groupF 0x18 (i := .ldSTVx x) rfl rfl, fun s => ⟨?readDT, ?setDT, ?setST⟩⟩
  case readDT => exact ⟨_, rfl, reg_setReg_advance s x s.dt, setReg_advance_frame ..⟩
  case setDT => exact ⟨_, rfl, rfl, advanced_advance_of_pc_eq rfl, (unchanged_setDT s _ rfl).advance⟩
  case setST => exact ⟨_, rfl, rfl, advanced_advance_of_pc_eq rfl, (unchanged_setST s _ rfl).advance⟩

end Sys2Proof.Machine
end

section
/-! PROOFS of the family 60_exceptions: the four causes of a fault (O8), TICK and what moves a timer (O52, O56), SET_KEY (O53),
and the operations that `halted` does not gate (O55). Which handlers move a timer or the halt flag is said once, by
`exec_timersAndHalt`. -/

namespace Sys2Proof.Machine

/-! ## The timers and the halt flag through a handler -/

/-- `2NNN` on a full stack or `00EE` on an empty one (R302, R303). -/
def StackFault (i : Instr) (s : State) : Prop :=
  (∃ nnn, i = .call nnn ∧ s.sp.val = 16) ∨ (i = .ret ∧ s.sp.val = 0)

/-- `t` is `s` after the handler of `i`, as far as the timers and the halt flag go: `FX15` and `FX18` alone set a timer, and
a stack fault alone halts. Unlike `Unchanged`, it needs no canonical memory. -/
structure TimersAndHalt (i : Instr) (s t : State) : Prop where
  dt : t.dt = s.dt ∨ ∃ x, i = .ldDTVx x
  st : t.st = s.st ∨ ∃ x, i = .ldSTVx x
  halted : t.halted = s.halted ∨ StackFault i s

theorem execRet_timersAndHalt (s : State) : ∃ t, execRet s = .next t ∧ TimersAndHalt .ret s t := by
  by_cases h : s.sp.val = 0
  · exact ⟨_, execRet_of_empty h, .inl rfl, .inl rfl, .inr (.inr ⟨rfl, h⟩)⟩
  · exact ⟨_, execRet_of_pos h, .inl rfl, .inl rfl, .inl rfl⟩

theorem execCall_timersAndHalt (nnn : Addr) (s : State) :
    ∃ t, execCall nnn s = .next t ∧ TimersAndHalt (.call nnn) s t := by
  by_cases h : s.sp.val < 16
  · exact ⟨_, execCall_of_lt nnn h, .inl rfl, .inl rfl, .inl rfl⟩
  · have h : s.sp.val = 16 := by omega
    exact ⟨_, execCall_of_full nnn h, .inl rfl, .inl rfl, .inr (.inl ⟨nnn, rfl, h⟩)⟩

theorem execLdVxK_timersAndHalt (x : RegIdx) (s : State) :
    ∃ t, execLdVxK x s = .next t ∧ TimersAndHalt (.ldVxK x) s t := by
  cases h : s.lowestKey with
  | none => exact ⟨s, execLdVxK_of_none x h, .inl rfl, .inl rfl, .inl rfl⟩
  | some k => exact ⟨_, execLdVxK_of_some x h, .inl rfl, .inl rfl, .inl rfl⟩

/-- The instructions that write registers, `I`, memory or the display, or draw a byte, and then advance. -/
theorem timersAndHalt_advance (i : Instr) (s : State) (v : Vector Byte 16) (index : Word) (mem : Memory) (display : Grid)
    (draws : Nat) : TimersAndHalt i s (State.advance { s with v, index, mem, display, draws }) :=
  ⟨.inl rfl, .inl rfl, .inl rfl⟩

theorem timersAndHalt_writeFlagged_advance (i : Instr) (s : State) (x : RegIdx) (r : AluResult) :
    TimersAndHalt i s (s.writeFlagged x r).advance := by
  obtain ⟨v, hv⟩ := s.writeFlagged_eq x r
  rw [hv]
  exact timersAndHalt_advance ..

theorem exec_timersAndHalt (i : Instr) (s : State) : ∃ t, exec i s = .next t ∧ TimersAndHalt i s t := by
  cases i with
  | ret => exact execRet_timersAndHalt s
  | call nnn => exact execCall_timersAndHalt nnn s
  | ldVxK x => exact execLdVxK_timersAndHalt x s
  | addReg | subReg | shr | subn | shl => exact ⟨_, rfl, timersAndHalt_writeFlagged_advance ..⟩
  | ldDTVx x => exact ⟨_, rfl, .inr ⟨x, rfl⟩, .inl rfl, .inl rfl⟩
  | ldSTVx x => exact ⟨_, rfl, .inl rfl, .inr ⟨x, rfl⟩, .inl rfl⟩
  | jp | jpV0 | seImm | sneImm | seReg | sneReg | skp | sknp => exact ⟨_, rfl, .inl rfl, .inl rfl, .inl rfl⟩
  | cls | sys | ldImm | addImm | ldReg | orReg | andReg | xorReg | ldI | rnd | drw | ldVxDT | addI | ldF | ldB | store
  | load => exact ⟨_, rfl, timersAndHalt_advance ..⟩

theorem timersAndHalt_of_exec {i : Instr} {s t : State} (h : exec i s = .next t) : TimersAndHalt i s t := by
  obtain ⟨u, hu, heffect⟩ := exec_timersAndHalt i s
  obtain rfl : u = t := by simpa [hu] using h
  exact heffect

/-! ## The four causes of a fault (R300, R305, R309) -/

/-- A fault that the handler takes is the outcome of the STEP. -/
theorem step_of_exec_takeFault {s : State} {i : Instr} {f : Fault} (h : s.halted = false) (hp : s.pc.toNat ≤ 4094)
    (hd : decode s.fetch = .ok i) (hx : exec i s = .next (s.takeFault f)) : step s = .next (s.takeFault f) := by
  rw [step_of_decoded h hp hd, hx, closeStep_next, if_pos (s.takeFault_halted f)]

/-- Each cause is enough. The word that a stack fault reports is the fetched one, which encodes the instruction. -/
theorem step_of_faultCause {s : State} {f : Fault} (h : s.halted = false) (hf : FaultCause s f) :
    step s = .next (s.takeFault f) := by
  cases f with
  | pcOutOfRange p =>
    obtain ⟨hp, rfl⟩ := hf
    exact step_of_pc_out_of_range h hp
  | invalidInstruction w p =>
    obtain ⟨hp, rfl, rfl, hinvalid⟩ := hf
    cases hd : decode s.fetch with
    | error e => exact step_of_invalid h hp hd
    | ok i => exact absurd hd (hinvalid i)
  | stackOverflow p w =>
    obtain ⟨hp, rfl, rfl, ⟨nnn, hd⟩, hsp⟩ := hf
    obtain ⟨-, hw⟩ := isWord_of_decode hd
    exact step_of_exec_takeFault h hp hd (hw ▸ execCall_of_full nnn hsp)
  | stackUnderflow p w =>
    obtain ⟨hp, rfl, rfl, hd, hsp⟩ := hf
    obtain ⟨-, hw⟩ := isWord_of_decode hd
    exact step_of_exec_takeFault h hp hd (hw ▸ execRet_of_empty hsp)

/-- There is no other cause: a STEP that ends halted stopped before the handler, or the handler faulted. -/
theorem faultCause_of_step_halts {s t : State} (hs : step s = .next t) (ht : t.halted = true) : ∃ f, FaultCause s f := by
  obtain ⟨hrun, ⟨hp, -⟩ | ⟨hp, ⟨e, hd⟩, -⟩ | ⟨hp, i, u, hd, hu, rfl⟩⟩ := step_cases hs
  · exact ⟨.pcOutOfRange s.pc, hp, rfl⟩
  · exact ⟨.invalidInstruction s.fetch s.pc, hp, rfl, rfl, by simp [hd]⟩
  · have hhalt : u.halted = true := by
      split at ht
      · assumption
      · exact ht
    obtain hkept | ⟨nnn, rfl, hsp⟩ | ⟨rfl, hsp⟩ := (timersAndHalt_of_exec hu).halted
    · simp [hkept, hrun] at hhalt
    · exact ⟨.stackOverflow s.pc s.fetch, hp, rfl, rfl, ⟨nnn, hd⟩, hsp⟩
    · exact ⟨.stackUnderflow s.pc s.fetch, hp, rfl, rfl, hd, hsp⟩

/-- Settles O8: a STEP that ends halted has a cause, and a cause determines the STEP. -/
theorem stepFaultsExactlyForTheFourCauses : Obligations.StepFaultsExactlyForTheFourCauses := by
  refine fun s hrun => ⟨fun f hf => step_of_faultCause hrun hf, fun t hs ht => ?_⟩
  obtain ⟨f, hf⟩ := faultCause_of_step_halts hs ht
  obtain rfl : s.takeFault f = t := by simpa [step_of_faultCause hrun hf] using hs
  exact ⟨f, hf, rfl⟩

/-! ## TICK and the two timers (R312, R313) -/

theorem toNat_countDown (b : Byte) : (countDown b).toNat = b.toNat - 1 := by
  unfold countDown
  split
  · bv_omega
  · omega

/-- The two timers (R30), named so that what holds of both is said once. -/
inductive Timer where
  /-- `DT` -/
  | delay
  /-- `ST` -/
  | sound

/-- What the timer holds. -/
def Timer.value : Timer → State → Byte
  | .delay, s => s.dt
  | .sound, s => s.st

/-- The instruction that sets the timer from `Vx`: `FX15` or `FX18` (R264, R265). -/
def Timer.setBy : Timer → RegIdx → Instr
  | .delay, x => .ldDTVx x
  | .sound, x => .ldSTVx x

section
variable (T : Timer) (s : State)

@[simp] theorem Timer.value_tick : T.value s.tick = countDown (T.value s) := by cases T <;> rfl
@[simp] theorem Timer.value_takeFault (f : Fault) : T.value (s.takeFault f) = T.value s := by cases T <;> rfl
@[simp] theorem Timer.value_retire : T.value s.retire = T.value s := by cases T <;> rfl
@[simp] theorem Timer.value_withKey (key : Vector Bool 16) : T.value { s with key } = T.value s := by cases T <;> rfl
@[simp] theorem Timer.value_withMem (mem : Memory) : T.value { s with mem } = T.value s := by cases T <;> rfl

end

/-- A handler that does not set the timer leaves it alone. -/
theorem Timer.value_of_exec {T : Timer} {i : Instr} {s t : State} (hi : ∀ x, i ≠ T.setBy x) (h : exec i s = .next t) :
    T.value t = T.value s := by
  obtain ⟨hdt, hst, -⟩ := timersAndHalt_of_exec h
  cases T with
  | delay => exact hdt.resolve_right (not_exists.mpr hi)
  | sound => exact hst.resolve_right (not_exists.mpr hi)

/-- A STEP that does not run the instruction that sets the timer leaves it alone. -/
theorem Timer.value_of_step {T : Timer} {s t : State} (hruns : ∀ x, ¬ Runs s (T.setBy x)) (h : step s = .next t) :
    T.value t = T.value s := by
  obtain ⟨hrun, ⟨-, rfl⟩ | ⟨-, -, rfl⟩ | ⟨hp, i, u, hd, hu, rfl⟩⟩ := step_cases h
  · exact T.value_takeFault s _
  · exact T.value_takeFault s _
  · have hkept : T.value u = T.value s := Timer.value_of_exec (fun x hx => hruns x ⟨hrun, hp, hx ▸ hd⟩) hu
    split
    · exact hkept
    · exact (T.value_retire u).trans hkept

/-- One operation other than RESET: TICK counts the timer down, and no other moves it but a STEP that sets it. -/
theorem Timer.value_invoke {T : Timer} {op : HostOp} {s : State} (hop : op ≠ .reset)
    (hruns : op = .step → ∀ x, ¬ Runs s (T.setBy x)) :
    (T.value (invoke op s).1).toNat = (T.value s).toNat - if op = .tick then 1 else 0 := by
  cases op with
  | reset => exact absurd rfl hop
  | tick => simp [invoke, toNat_countDown]
  | step =>
    cases hs : step s with
    | next t => simp [invoke, hs, Timer.value_of_step (hruns rfl) hs]
    | fault f => simp [invoke, hs]
    | refused r => simp [invoke, hs]
  | setKey k pressed =>
    rw [invoke_setKey_fst]
    split <;> simp
  | load image =>
    rw [invoke_load_fst]
    split <;> simp
  | display | delay | sound => simp [invoke]

/-- Over a history without RESET, a timer that no STEP sets has gone down by the number of TICKs, stopping at 0. -/
theorem Timer.value_stateAt {T : Timer} {history : Nat → HostOp} {s : State} {n : Nat}
    (hreset : ∀ k < n, history k ≠ .reset)
    (hruns : ∀ k < n, history k = .step → ∀ x, ¬ Runs (stateAt history s k) (T.setBy x)) :
    (T.value (stateAt history s n)).toNat =
      (T.value s).toNat - (List.range n).countP (fun k => decide (history k = .tick)) := by
  induction n with
  | zero => rfl
  | succ n ih =>
    have hbefore := ih (fun k hk => hreset k (Nat.lt_succ_of_lt hk)) (fun k hk => hruns k (Nat.lt_succ_of_lt hk))
    have hlast := Timer.value_invoke (hreset n n.lt_succ_self) (hruns n n.lt_succ_self)
    rw [stateAt, hlast, hbefore, List.range_succ, List.countP_append, List.countP_singleton, Nat.sub_sub]
    simp

/-- Settles O56, for each timer by `Timer.value_stateAt`. -/
theorem onlyTicksMoveATimer : Obligations.OnlyTicksMoveATimer :=
  fun _ _ _ hreset => ⟨Timer.value_stateAt (T := .delay) hreset, Timer.value_stateAt (T := .sound) hreset⟩

/-- A history of TICKs alone. -/
theorem Timer.value_stateAt_tick (T : Timer) (n : Nat) (s : State) :
    (T.value (stateAt (fun _ => .tick) s n)).toNat = (T.value s).toNat - n := by
  simpa using Timer.value_stateAt (T := T) (history := fun _ => .tick) (s := s) (n := n) (by simp) (by simp)

/-- Settles O52: the second part is O56's history lemma for TICKs alone. -/
theorem ticksCountEachTimerDown : Obligations.TicksCountEachTimerDown :=
  ⟨fun s => ⟨s.tick, rfl, toNat_countDown s.dt, toNat_countDown s.st, rfl⟩,
    fun n s => ⟨Timer.value_stateAt_tick .delay n s, Timer.value_stateAt_tick .sound n s⟩⟩

/-! ## SET_KEY (R317) -/

theorem invoke_setKey_of_lt {k : Nat} (h : k < 16) (pressed : Bool) (s : State) :
    invoke (.setKey k pressed) s = ({ s with key := s.key.set k pressed h }, .ok) := by
  simp [invoke, setKey, h]

theorem invoke_setKey_of_ge {k : Nat} (h : 16 ≤ k) (pressed : Bool) (s : State) :
    invoke (.setKey k pressed) s = (s, .refused (.keyIndexOutOfContract k)) := by
  simp [invoke, setKey, Nat.not_lt.mpr h]

/-- Settles O53. -/
theorem setKeySetsOneKey : Obligations.SetKeySetsOneKey := by
  refine fun s pressed => ⟨fun k => ⟨_, invoke_setKey_of_lt k.isLt pressed s, ?self, fun j hj => ?other, rfl⟩,
    fun k hk => invoke_setKey_of_ge hk pressed s⟩
  case self => exact Vector.getElem_set_self k.isLt
  case other => exact Vector.getElem_set_ne k.isLt j.isLt fun h => hj (Fin.ext h.symm)

/-! ## What `halted` does not gate (R315, R316, R318, R354) -/

theorem invoke_load_of_le {image : List Byte} (h : image.length ≤ Config.maxImage) (s : State) :
    invoke (.load image) s = ({ s with mem := Memory.writeFrom s.mem Config.progStart 0 image }, .ok) := by
  simp [invoke, load, Nat.not_lt.mpr h]

theorem invoke_load_of_gt {image : List Byte} (h : Config.maxImage < image.length) (s : State) :
    invoke (.load image) s = (s, .imageTooLarge) := by
  simp [invoke, load, h]

/-- An operation other than STEP and RESET carries the halt flag along. -/
theorem invoke_withHalted {op : HostOp} (hstep : op ≠ .step) (hreset : op ≠ .reset) (s : State) (h : Bool) :
    invoke op { s with halted := h } = ({ (invoke op s).1 with halted := h }, (invoke op s).2) := by
  cases op with
  | step => exact absurd rfl hstep
  | reset => exact absurd rfl hreset
  | tick | display | delay | sound => rfl
  | setKey k pressed =>
    by_cases hk : k < 16
    · simp only [invoke_setKey_of_lt hk]
    · simp only [invoke_setKey_of_ge (Nat.not_lt.mp hk)]
  | load image =>
    by_cases hl : image.length ≤ Config.maxImage
    · simp only [invoke_load_of_le hl]
    · simp only [invoke_load_of_gt (Nat.not_le.mp hl)]

/-- Settles O55. -/
theorem haltGatesStepOnly : Obligations.HaltGatesStepOnly :=
  ⟨fun _ s h hstep hreset => invoke_withHalted hstep hreset s h, fun _ => ⟨rfl, rfl, rfl⟩⟩

end Sys2Proof.Machine
end

section
/-! PROOFS of the family 70_reset_and_hazards: the run over zero memory (O11), RESET (O12) and LOAD (O54). RESET's copy of
FONT and LOAD's copy of the image are both one block of bytes that does not reach past the end of memory, so what such a
block leaves unchanged is said once, by `Memory.read_writeFrom_outside`. -/

namespace Sys2Proof.Machine

/-! ## A block of bytes in memory -/

theorem Memory.wrap_of_lt {a : Nat} (h : a < Config.memSize) : Memory.wrap a = a := Nat.mod_eq_of_lt h

/-- A block that does not reach past the end of memory changes no address before its first or after its last byte. -/
theorem Memory.read_writeFrom_outside {m : Memory} (hm : Memory.wf m) {base : Nat} {vs : List Byte}
    (hfits : base + vs.length ≤ Config.memSize) {a : Nat} (ha : a < Config.memSize)
    (hout : a < base ∨ base + vs.length ≤ a) :
    Memory.read (Memory.writeFrom m base 0 vs) a = Memory.read m a := by
  refine Memory.read_writeFrom_of_ne hm base 0 vs a fun k hk => ?_
  have hea : Memory.ea base (0 + k) = base + k := by
    rw [Nat.zero_add]
    exact Memory.wrap_of_lt (by omega)
  rw [hea, Memory.wrap_of_lt ha]
  omega

/-- The default font is 80 bytes long; above it the reset content is 0 (R40). -/
theorem Config.resetByte_of_ge {a : Nat} (h : 80 ≤ a) : Config.resetByte a = 0 :=
  List.getD_eq_default _ _ (by simpa using h)

/-- Memory that lists nothing reads 0 above the font. -/
theorem Memory.read_nil_of_ge {a : Nat} (hfont : 80 ≤ a) (ha : a < Config.memSize) : Memory.read [] a = 0 := by
  rw [Memory.read_nil, Memory.wrap_of_lt ha, Config.resetByte_of_ge hfont]

/-! ## RESET (R350) -/

/-- The machine's own font is found at 0x000 (R352). -/
theorem State.byteAt_resetOp_font (s : State) (k : Fin 80) : s.resetOp.byteAt k.val = s.params.font[k] := by
  have hread := Memory.read_writeFrom Memory.wf_nil Config.fontBase 0 s.params.font.toList
    (by rw [Vector.length_toList]; decide) k.val (by rw [Vector.length_toList]; exact k.isLt)
  simpa [State.byteAt, Config.fontBase] using hread

theorem State.byteAt_resetOp_of_ge (s : State) {a : Nat} (hfont : 80 ≤ a) (ha : a < Config.memSize) :
    s.resetOp.byteAt a = 0 := by
  have hend : Config.fontBase + s.params.font.toList.length = 80 := by rw [Vector.length_toList]; rfl
  calc s.resetOp.byteAt a = Memory.read [] a :=
        Memory.read_writeFrom_outside Memory.wf_nil (by rw [hend]; decide) ha (.inr (by rwa [hend]))
    _ = 0 := Memory.read_nil_of_ge hfont ha

/-- Settles O12: RESET writes every field itself, memory by the copy of the font; any other operation on a halted machine
writes at most memory, the timers and the keypad. -/
theorem resetGivesTheStatedState : Obligations.ResetGivesTheStatedState := by
  refine ⟨fun s => ⟨s.resetOp, rfl, ?regs, rfl, rfl, ?stack, s.byteAt_resetOp_font, fun a => s.byteAt_resetOp_of_ge,
    Grid.pixel_clear, rfl, rfl, ?key, rfl, rfl, rfl, rfl, rfl⟩, fun op s hop h => ?halted⟩
  case regs => exact fun x => Vector.getElem_replicate x.isLt
  case stack => exact fun k => Vector.getElem_replicate k.isLt
  case key => exact fun k => Vector.getElem_replicate k.isLt
  case halted =>
    obtain ⟨_, _, _, _, ht⟩ := invoke_of_halted h hop
    rw [ht]
    exact h

/-! ## LOAD (R353, R354) -/

/-- Settles O54: 3584 bytes from 0x200 on reach exactly to the end of memory. -/
theorem loadPlacesTheImage : Obligations.LoadPlacesTheImage := by
  intro s image hm
  refine ⟨fun h => invoke_load_of_gt h s, fun h => ⟨_, invoke_load_of_le h s, fun k hk => ?inside,
    fun a ha hout => ?outside, rfl⟩⟩
  case inside => exact Memory.read_writeFrom hm Config.progStart 0 image (h.trans (by decide)) k hk
  case outside => exact Memory.read_writeFrom_outside hm (Nat.add_le_add_left h 0x200) ha hout

/-! ## The run over zero memory (R351)

The word 0x0000 is the no-op `0NNN` (R130), so a STEP over it advances, is counted as `Ok`, and leaves memory as it is. -/

theorem State.fetch_of_zero {s : State} (h0 : s.byteAt s.pc.toNat = 0) (h1 : s.byteAt (s.pc.toNat + 1) = 0) :
    s.fetch = 0 := by
  rw [State.fetch, h0, h1]
  rfl

theorem step_of_fetch_zero {s : State} (h : s.halted = false) (hp : s.pc.toNat ≤ 4094) (hw : s.fetch = 0) :
    step s = .next s.advance.retire := by
  have hd : decode s.fetch = .ok (.sys 0) := by rw [hw]; rfl
  have hx : exec (.sys 0) s = .next s.advance := rfl
  rw [step_of_decoded h hp hd, hx, closeStep_next, if_neg (by simp [h])]

theorem invoke_step_fst_of_next {s t : State} (h : step s = .next t) : (invoke .step s).1 = t := by
  simp [invoke, h]

/-- `t` is the running machine that `k` no-ops lead to from `s`. -/
structure RanNoOps (s : State) (k : Nat) (t : State) : Prop where
  halted : t.halted = false
  pc : t.pc.toNat = s.pc.toNat + 2 * k
  executed : t.executed = s.executed + k
  mem : t.mem = s.mem

theorem RanNoOps.refl {s : State} (h : s.halted = false) : RanNoOps s 0 s := ⟨h, rfl, rfl, rfl⟩

/-- One more no-op, with its word still in memory. -/
theorem RanNoOps.invoke_step {s t : State} {k : Nat} (h : RanNoOps s k t) (hp : s.pc.toNat + 2 * k ≤ 4094)
    (hzero : ∀ a, s.pc.toNat ≤ a → a < 4096 → s.byteAt a = 0) : RanNoOps s (k + 1) (invoke .step t).1 := by
  obtain ⟨hhalted, hpc, hexecuted, hmem⟩ := h
  have hbyte (a : Nat) (hlo : s.pc.toNat ≤ a) (hhi : a < 4096) : t.byteAt a = 0 :=
    (State.byteAt_congr hmem a).trans (hzero a hlo hhi)
  have hfetch : t.fetch = 0 := State.fetch_of_zero (hbyte _ (by omega) (by omega)) (hbyte _ (by omega) (by omega))
  rw [invoke_step_fst_of_next (step_of_fetch_zero hhalted (by omega) hfetch)]
  have hadvance : (t.pc + 2).toNat = (t.pc.toNat + 2) % 65536 := BitVec.toNat_add t.pc 2
  refine ⟨hhalted, ?_, ?_, hmem⟩
  · rw [State.retire_pc, State.advance_pc, hadvance]
    omega
  · rw [State.retire_executed, State.advance_executed, hexecuted, Nat.add_assoc]

/-- Zero memory from `pc` on carries the machine over `k` no-ops, as far as they lie in memory. -/
theorem ranNoOps_stateAt {s : State} (h : s.halted = false)
    (hzero : ∀ a, s.pc.toNat ≤ a → a < 4096 → s.byteAt a = 0) {k : Nat} (hk : s.pc.toNat + 2 * k ≤ 4096) :
    RanNoOps s k (stateAt (fun _ => .step) s k) := by
  induction k with
  | zero => exact .refl h
  | succ k ih => exact (ih (by omega)).invoke_step (by omega) hzero

/-- After `n` no-ops `pc` is just past the end of memory, where the fetch faults (R304). -/
theorem runsOffTheEnd_of_zero {n : Nat} {s : State} (h : s.halted = false) (hn : s.pc.toNat + 2 * n = 4096)
    (hzero : ∀ a, s.pc.toNat ≤ a → a < 4096 → s.byteAt a = 0) :
    ∃ t, t = stateAt (fun _ => .step) s n ∧ t.pc = 0x1000 ∧ t.halted = false ∧ t.executed = s.executed + n ∧
      step t = .next (t.takeFault (.pcOutOfRange 0x1000)) := by
  obtain ⟨hhalted, hpc, hexecuted, -⟩ := ranNoOps_stateAt h hzero hn.le
  have hend : (stateAt (fun _ => .step) s n).pc = 0x1000 := BitVec.eq_of_toNat_eq (hpc.trans hn)
  refine ⟨_, rfl, hend, hhalted, hexecuted, ?_⟩
  rw [step_of_pc_out_of_range hhalted (by rw [hpc, hn]; decide), hend]

/-- Settles O11: the run over zero memory, and the one from reset, whose memory is zero above the font. -/
theorem zeroMemoryRunsOffTheEnd : Obligations.ZeroMemoryRunsOffTheEnd := by
  refine ⟨fun n s h hn hzero => runsOffTheEnd_of_zero h hn hzero, ?_⟩
  have hzero (a : Nat) (hlo : 0x200 ≤ a) (hhi : a < 4096) : State.reset.byteAt a = 0 :=
    Memory.read_nil_of_ge (Nat.le_trans (by decide) hlo) hhi
  obtain ⟨t, ht, hpc, hhalted, hexecuted, hstep⟩ := runsOffTheEnd_of_zero (n := 1792) (s := State.reset) rfl rfl hzero
  exact ⟨t, ht, hpc, hhalted, hexecuted.trans (Nat.zero_add _), hstep⟩

end Sys2Proof.Machine
end
